-- ==== Sys2Proof/Word.lean ====
section
/-! DEFINITION. The word types of GWFRAMER (00_scope.md R7, R8): every value is unsigned, of the width its
declaration states. Nothing here computes; the arithmetic of the rules stands in Machine/. -/

namespace Sys2Proof

/-- One byte: of a buffer, of the serial line, of a frame. -/
abbrev Byte := BitVec 8

/-- The 32 bits of a register, of a bus access's data and of a command word (R7, `REG_W`). -/
abbrev Word := BitVec 32

/-- A 16-bit byte address on the host bus (R7, `ADDR_W`). -/
abbrev Addr := BitVec 16

end Sys2Proof
end

