-- ==== Sys2Proof/Config.lean ====
section
/-! DEFINITION. What an implementation fixes, what comes from outside the block, and the free values: the
parameters of 00_scope.md R7, the form of a host access (30_encoding.md R100), the environment's inputs, and
opaque constants with no value for everything the spec leaves open. -/

namespace Sys2Proof

/-- A host access as the bus carries it (30_encoding.md R100). -/
inductive BusAccess where
  | read (a : Addr)
  | write (a : Addr) (v : Word)
  deriving DecidableEq, Repr, Inhabited

/-- What the environment chooses for one step: which agent moves (00_scope.md R6) and with what.
DESIGN CHOICE, safe: log entries 1, 2, 3 and 9. -/
inductive Input where
  /-- The host takes its step (45_control.md R340). -/
  | host (acc : BusAccess)
  /-- A rising edge of `clk` outside reset, with the level of `rxd` (true is 1) at that edge (44_serial.md R290, R310). -/
  | clk (rxd : Bool)
  /-- The serializer takes the tick it is owed (44_serial.md R300). -/
  | serializer
  /-- The sampler takes the tick it is owed (44_serial.md R310). -/
  | sampler
  /-- A rising edge of `clk` with `rst_n` low (70_reset_and_hazards.md R450). -/
  | rstN
  deriving DecidableEq, Repr, Inhabited

/-- The byte stores of the block: the buffers of 10_state.md R41 but the raw FIFO, and SEGD and SEGL of R42. -/
inductive Buffer where
  | txbuf | rxbuf | asm | segbuf | palbuf | canbuf | segd | segl
  deriving DecidableEq, Repr, Inhabited

/-- `BUF_SIZE` (00_scope.md R7). -/
def Config.bufSize : Nat := 1024
/-- `MAX_RX_LEN` (00_scope.md R7). -/
def Config.maxRxLen : Nat := 1024
/-- `RAW_DEPTH` (00_scope.md R7). -/
def Config.rawDepth : Nat := 16
/-- `CAN_SIZE` (00_scope.md R7). -/
def Config.canSize : Nat := 8
/-- `SEG_DATA` (00_scope.md R7). -/
def Config.segData : Nat := 7
/-- `PAL_MAX_DATA` (00_scope.md R7). -/
def Config.palMaxData : Nat := 892
/-- `OVS` (00_scope.md R7). -/
def Config.ovs : Nat := 16

/-- `BAUDDIV_RESET`, OPEN: a parameter of the implementation, any value 0 to 65535 (00_scope.md R7). Log entry 5. -/
opaque Config.bauddivReset : BitVec 16
/-- `CRC32_INIT_RESET`, OPEN: a parameter of the implementation, any 32-bit value (00_scope.md R7). Log entry 5. -/
opaque Config.crc32InitReset : Word
/-- The byte a buffer holds at an index nothing has written since its contents last became unspecified, the
`epoch`-th time (70_reset_and_hazards.md R452): arbitrary, fixed until written. Log entry 4. -/
opaque Config.bufByte (epoch : Nat) (b : Buffer) (i : Nat) : Byte
/-- The `n`-th input the environment supplies when none is already known (00_scope.md R6). Log entry 1. -/
opaque Config.input (n : Nat) : Input

end Sys2Proof
end

