-- ==== Sys2Proof/Syntax.lean ====
section
/-! DEFINITION. The instructions of GWFRAMER (00_scope.md R2): the sixteen command words written to CMD
(30_encoding.md R105) and the two bus accesses (R100). One constructor for each row of opcode_table.json. -/

namespace Sys2Proof

/-- What a host step asks of the block. A command word's operand is its used ARG bits (30_encoding.md R103). -/
inductive Instr where
  /-- NOP, 45_control.md R350. -/
  | nop
  /-- SRST, 45_control.md R351. -/
  | srst
  /-- S8_CLR, 40_checksum.md R142. -/
  | s8Clr
  /-- S8_ADD b, 40_checksum.md R143. -/
  | s8Add (b : Byte)
  /-- C32_INIT, 40_checksum.md R145. -/
  | c32Init
  /-- C32_ADD b, 40_checksum.md R146. -/
  | c32Add (b : Byte)
  /-- TXB_CLR, 45_control.md R352. -/
  | txbClr
  /-- RXB_REL, 45_control.md R353. -/
  | rxbRel
  /-- CANB_CLR, 45_control.md R354. -/
  | canbClr
  /-- TX_FRAME, 41_frame_tx.md R172. -/
  | txFrame
  /-- TX_RAW, 41_frame_tx.md R178. -/
  | txRaw
  /-- UC_BUILD, 43_ucan_pallet.md R240. -/
  | ucBuild
  /-- UC_CHECK L, 43_ucan_pallet.md R242. -/
  | ucCheck (l : BitVec 3)
  /-- PAL_TX, 43_ucan_pallet.md R245. -/
  | palTx
  /-- PAL_SEG, 43_ucan_pallet.md R250. -/
  | palSeg
  /-- PAL_ABORT, 43_ucan_pallet.md R256. -/
  | palAbort
  /-- BusRead(a), 45_control.md R341. -/
  | busRead (a : Addr)
  /-- BusWrite(a, v), 45_control.md R342. A write of a command word to CMD is that command's own constructor. -/
  | busWrite (a : Addr) (v : Word)
  deriving DecidableEq, Repr

end Sys2Proof
end

