-- ==== Sys2Proof/Decode.lean ====
section
/-! DEFINITION. Decoding of host accesses and command words (30_encoding.md R100 to R106), and after it the
encoder, written from the same table. -/

namespace Sys2Proof

/-- A row of the opcode map (30_encoding.md R105): a word `w` selects it when `w & mask = pattern`. -/
structure CmdRow where
  mask : Word
  pattern : Word
  build : Word → Instr

/-- `ARG[7:0]` (30_encoding.md R102). -/
def argByte (w : Word) : Byte := w.extractLsb' 0 8

/-- `ARG[2:0]`, the L of UC_CHECK (30_encoding.md R103). -/
def argLen (w : Word) : BitVec 3 := w.extractLsb' 0 3

/-- `w[31:24]`, the opcode (30_encoding.md R102). -/
def opField (w : Word) : Byte := w.extractLsb' 24 8

/-- `w[23:8]`, the reserved field (30_encoding.md R102). -/
def rsvField (w : Word) : BitVec 16 := w.extractLsb' 8 16

/-- The opcode map of 30_encoding.md R105, in its order. -/
def cmdTable : List CmdRow :=
  [ ⟨0xFFFFFFFF, 0x00000000, fun _ => .nop⟩,
    ⟨0xFFFFFFFF, 0x01000000, fun _ => .srst⟩,
    ⟨0xFFFFFFFF, 0x10000000, fun _ => .s8Clr⟩,
    ⟨0xFFFFFF00, 0x11000000, fun w => .s8Add (argByte w)⟩,
    ⟨0xFFFFFFFF, 0x18000000, fun _ => .c32Init⟩,
    ⟨0xFFFFFF00, 0x19000000, fun w => .c32Add (argByte w)⟩,
    ⟨0xFFFFFFFF, 0x20000000, fun _ => .txbClr⟩,
    ⟨0xFFFFFFFF, 0x21000000, fun _ => .rxbRel⟩,
    ⟨0xFFFFFFFF, 0x22000000, fun _ => .canbClr⟩,
    ⟨0xFFFFFFFF, 0x30000000, fun _ => .txFrame⟩,
    ⟨0xFFFFFFFF, 0x31000000, fun _ => .txRaw⟩,
    ⟨0xFFFFFFFF, 0x40000000, fun _ => .ucBuild⟩,
    ⟨0xFFFFFFF8, 0x41000000, fun w => .ucCheck (argLen w)⟩,
    ⟨0xFFFFFFFF, 0x48000000, fun _ => .palTx⟩,
    ⟨0xFFFFFFFF, 0x49000000, fun _ => .palSeg⟩,
    ⟨0xFFFFFFFF, 0x4A000000, fun _ => .palAbort⟩ ]

/-- Why a word is no command (30_encoding.md R104, R106). The block answers BADOP to each. -/
inductive CmdReject where
  /-- OP is in no row of the opcode map (R106). -/
  | reservedOp
  /-- OP is in the map and RSV is not 0. -/
  | rsvNotZero
  /-- OP is in the map, RSV is 0 and an unused ARG bit is 1. -/
  | argNotZero
  deriving DecidableEq, Repr

/-- Does the word select the row (30_encoding.md R105)? -/
def CmdRow.selects (r : CmdRow) (w : Word) : Bool := w &&& r.mask == r.pattern

/-- The name of the first check of 30_encoding.md R104 that a word selecting no row fails. -/
def rejectReason (w : Word) : CmdReject :=
  if cmdTable.all (fun r => opField r.pattern != opField w) then .reservedOp
  else if rsvField w ≠ 0 then .rsvNotZero
  else .argNotZero

/-- The command a word written to CMD stands for, or why it stands for none (30_encoding.md R104). -/
def decodeCmd (w : Word) : Except CmdReject Instr :=
  match cmdTable.find? (fun r => r.selects w) with
  | some r => .ok (r.build w)
  | none => .error (rejectReason w)

/-- The address of CMD (10_state.md R22). -/
def cmdAddr : Addr := 0x0010

/-- The instruction of a host access. A write of a command word to CMD is the command (45_control.md R355); every
other access is itself, a write to CMD of a word that is no command among them. DEDUCED, safe: log entry 9. -/
def decode : BusAccess → Instr
  | .read a => .busRead a
  | .write a v =>
    if a = cmdAddr then
      match decodeCmd v with
      | .ok i => i
      | .error _ => .busWrite a v
    else .busWrite a v

/-- The access that the opcode table's bits stand for: 32 bits are a command word written to CMD, 16 bits the
address of a read, 48 bits the address and the data of a write. DESIGN CHOICE: log entry 10. -/
def accessOfTable (nbits w : Nat) : Option BusAccess :=
  if nbits = 32 then some (.write cmdAddr (BitVec.ofNat 32 w))
  else if nbits = 16 then some (.read (BitVec.ofNat 16 w))
  else if nbits = 48 then some (.write (BitVec.ofNat 16 w) (BitVec.ofNat 32 (w / 65536)))
  else none

/-- The instruction the decoder reads from the opcode table's bits; a 32-bit word that is no command gives none. -/
def decodeTableWord (nbits w : Nat) : Option Instr :=
  if nbits = 32 then
    match decodeCmd (BitVec.ofNat 32 w) with
    | .ok i => some i
    | .error _ => none
  else (accessOfTable nbits w).map decode

/-- A command word from its opcode and argument: `(OP << 24) | arg` (30_encoding.md R131). -/
def cmdWord (op arg : Byte) : Word := op ++ (0 : BitVec 16) ++ arg

/-- The command word of a command; a bus access has none (30_encoding.md R105). -/
def encodeCmd : Instr → Option Word
  | .nop => some (cmdWord 0x00 0)
  | .srst => some (cmdWord 0x01 0)
  | .s8Clr => some (cmdWord 0x10 0)
  | .s8Add b => some (cmdWord 0x11 b)
  | .c32Init => some (cmdWord 0x18 0)
  | .c32Add b => some (cmdWord 0x19 b)
  | .txbClr => some (cmdWord 0x20 0)
  | .rxbRel => some (cmdWord 0x21 0)
  | .canbClr => some (cmdWord 0x22 0)
  | .txFrame => some (cmdWord 0x30 0)
  | .txRaw => some (cmdWord 0x31 0)
  | .ucBuild => some (cmdWord 0x40 0)
  | .ucCheck l => some (cmdWord 0x41 (l.setWidth 8))
  | .palTx => some (cmdWord 0x48 0)
  | .palSeg => some (cmdWord 0x49 0)
  | .palAbort => some (cmdWord 0x4A 0)
  | .busRead _ => none
  | .busWrite _ _ => none

/-- The host access of an instruction: a command is the write of its word to CMD (30_encoding.md R131). -/
def encode (i : Instr) : BusAccess :=
  match i, encodeCmd i with
  | .busRead a, _ => .read a
  | .busWrite a v, _ => .write a v
  | _, some w => .write cmdAddr w
  | _, none => .read 0

end Sys2Proof
end

