-- ==== Sys2Proof/Machine/State.lean ====
section
/-! DEFINITION. The state of GWFRAMER as plain data: every register and internal element of 10_state.md, grouped by
the agent or unit that owns it, the fields the model adds (in `TickGen` and `Env`), the reasons a step can stop, and
the state after reset (70_reset_and_hazards.md R451). -/

namespace Sys2Proof.Machine

/-- A byte store, as (index, byte) pairs with indices strictly rising. An index not listed has not been written and
reads as a free byte (70_reset_and_hazards.md R452, log entry 4). -/
abbrev Memory := List Host.Cell

/-- The canonical form of a byte store: indices strictly rising, so equal stores are equal lists. -/
abbrev Memory.wf (m : Memory) : Prop := m.Pairwise (fun p q => p.1 < q.1)

/-- The error kinds of ERR, in bit order (60_exceptions.md R401). -/
inductive Err where
  | txovf | busy | mode | arg | badop | badaddr | rxfrm | rxovr | rxlong | uartfe | rawovf | canovf
  | palcrc | palhdr | palabt
  deriving DecidableEq, Repr

/-- The legal values of FRAMECFG.CHK (10_state.md R28). -/
inductive Chk where
  | sum8 | crc32
  deriving DecidableEq, Repr

/-- FRAMECFG (10_state.md R28): only legal values can be held. `lw` is true for a two-byte length field. -/
structure FrameCfg where
  sm : Byte
  em : Byte
  chk : Chk
  lw : Bool
  iw : Fin 5
  deriving DecidableEq, Repr

/-- The deframer's states (10_state.md R40). -/
inductive RxState where
  | hunt | len | instr | pay | chk | endm
  deriving DecidableEq, Repr

/-- The UART receiver's states (10_state.md R45). -/
inductive UrxState where
  | idle | start | data | stop | brk
  deriving DecidableEq, Repr

/-- The UART transmitter's states (10_state.md R46). -/
inductive UtxState where
  | tidle | tstart | tdata | tstop
  deriving DecidableEq, Repr

/-- The control and configuration registers, the host's checksum units and UC_OK. -/
structure Regs where
  /-- CTRL[2:0], 10_state.md R23. -/
  ctrl : BitVec 3
  /-- ERR[14:0], 10_state.md R25. -/
  err : BitVec 15
  /-- IRQ_EN[4:0], 10_state.md R26. -/
  irqEn : BitVec 5
  /-- FRAMECFG, 10_state.md R28. -/
  frameCfg : FrameCfg
  /-- C32INIT, 10_state.md R30. -/
  c32init : Word
  /-- S8.ACC, 10_state.md R31. -/
  s8 : Byte
  /-- C32, 10_state.md R32. -/
  c32 : Word
  /-- TXINSTR, 10_state.md R33. -/
  txInstr : Word
  /-- STATUS.UC_OK, 10_state.md R24. -/
  ucOk : Bool
  deriving DecidableEq, Repr

/-- The transmit side: TXLEN, the STATUS bits of a transmission, TXQ, the serializer and TXB. -/
structure Transmitter where
  /-- TXLEN, 10_state.md R34. -/
  txLen : Nat
  /-- STATUS.TX_BUSY, 10_state.md R24. -/
  txBusy : Bool
  /-- STATUS.TX_DONE, 10_state.md R24. -/
  txDone : Bool
  /-- TXQ, front first, 10_state.md R44. -/
  txq : List Byte
  /-- UTXST, 10_state.md R46. -/
  utxst : UtxState
  /-- `utx_cnt`, 10_state.md R46. -/
  utxCnt : Nat
  /-- `utx_nbit`, 10_state.md R46. -/
  utxNbit : Nat
  /-- `utx_b`, 10_state.md R46. -/
  utxB : Byte
  /-- TXB, 10_state.md R47. -/
  txb : BitVec 64
  /-- TXB_SHADOW, 10_state.md R47. -/
  txbShadow : Word
  deriving DecidableEq, Repr

/-- The deframer (10_state.md R40); its buffer ASM is in `Buffers`. -/
structure Deframer where
  /-- RXST. -/
  rxst : RxState
  /-- `rx_i`. -/
  rxI : Nat
  /-- `rx_len`. -/
  rxLen : BitVec 16
  /-- `rx_instr`. -/
  rxInstr : Word
  /-- `rx_s8`. -/
  rxS8 : Byte
  /-- `rx_c32`. -/
  rxC32 : Word
  /-- `rx_chk`. -/
  rxChk : Byte
  /-- `rx_j`. -/
  rxJ : Nat
  deriving DecidableEq, Repr

/-- What the deframer hands the host: the hold buffer's registers and the counts of dropped frames. -/
structure Hold where
  /-- STATUS.RX_FULL, 10_state.md R24. -/
  rxFull : Bool
  /-- RXLEN, 10_state.md R35. -/
  rxLen : Nat
  /-- RXINSTR, 10_state.md R35. -/
  rxInstr : Word
  /-- CNT_BADFRAME, 10_state.md R48. -/
  cntBadframe : BitVec 16
  /-- CNT_OVERRUN, 10_state.md R48. -/
  cntOverrun : BitVec 16
  deriving DecidableEq, Repr

/-- The receive side below the deframer: the sampler, the raw FIFO and RXB. -/
structure Receiver where
  /-- URXST, 10_state.md R45. -/
  urxst : UrxState
  /-- `urx_cnt`, 10_state.md R45. -/
  urxCnt : Nat
  /-- `urx_nbit`, 10_state.md R45. -/
  urxNbit : Nat
  /-- `urx_sh`, 10_state.md R45. -/
  urxSh : Byte
  /-- The raw FIFO, oldest byte first; RAWCNT is its length (10_state.md R39). -/
  rawFifo : List Byte
  /-- RXB, 10_state.md R47. -/
  rxb : BitVec 64
  /-- RXB_SHADOW, 10_state.md R47. -/
  rxbShadow : Word
  deriving DecidableEq, Repr

/-- The bit clock: BAUDDIV, the divider, and the tick each engine is still owed (the model's own, log entry 2). -/
structure TickGen where
  /-- BAUDDIV.DIV, 10_state.md R29. -/
  div : BitVec 16
  /-- `dv`, 10_state.md R46. -/
  dv : BitVec 16
  /-- The last tick has not been taken by the serializer yet. -/
  txOwed : Bool
  /-- The last tick has not been taken by the sampler yet; the level of `rxd` at that tick. -/
  rxOwed : Option Bool
  deriving DecidableEq, Repr

/-- The uCAN buffer's length, the segmenter's output registers and the reassembler. -/
structure Pallet where
  /-- CANLEN, 10_state.md R36. -/
  canLen : Nat
  /-- SEGINFO.SEG_N, 10_state.md R37. -/
  segN : Nat
  /-- SEGINFO.SEG_LASTLEN, 10_state.md R37. -/
  segLastLen : Nat
  /-- PALINFO.PAL_N, 10_state.md R38. -/
  palN : Nat
  /-- PALINFO.PAL_LEN, 10_state.md R38. -/
  palLen : Nat
  /-- KEYS, 10_state.md R42. -/
  keys : BitVec 128
  /-- STATUS.PAL_DONE, 10_state.md R24. -/
  palDone : Bool
  /-- STATUS.PAL_OK, 10_state.md R24. -/
  palOk : Bool
  deriving DecidableEq, Repr

/-- The byte stores of 10_state.md R41 and R42. Byte j of SEGD[k] is at index 8k + j of `segd`, SEGL[k] at index k
of `segl`. -/
structure Buffers where
  txbuf : Memory
  rxbuf : Memory
  asm : Memory
  segbuf : Memory
  palbuf : Memory
  canbuf : Memory
  segd : Memory
  segl : Memory
  deriving DecidableEq, Repr

/-- The model's own fields: what the host last read, the inputs to come, and the indices of the free values. -/
structure Env where
  /-- The value the last BusRead returned (log entry 7). -/
  rdata : Word
  /-- The inputs already known, next one first (log entries 1 and 10). -/
  inputs : List Input
  /-- How many inputs were drawn from `Config.input` (log entry 1). -/
  draws : Nat
  /-- Index of the free bytes of the buffers, one more at each `rst_n` (log entry 4). -/
  epoch : Nat
  /-- Index of the free bytes of SEGD and SEGL, one more at each reset of them (log entry 8). -/
  segEpoch : Nat
  deriving DecidableEq, Repr

/-- The whole machine. -/
structure State where
  regs : Regs
  tx : Transmitter
  df : Deframer
  hold : Hold
  urx : Receiver
  tick : TickGen
  pal : Pallet
  mem : Buffers
  env : Env
  deriving DecidableEq, Repr

/-- The machine never stops with a fault: no access gives a bus error and no error stops an engine
(20_memory.md R74, 60_exceptions.md R400), so there is no reason to name. -/
inductive Fault where
  deriving DecidableEq, Repr

/-- Why an instruction may have no meaning here. -/
inductive Refusal where
  /-- Raised by an arm of `exec` for an instruction that has no meaning yet; no arm does. Safe: the machine stops. -/
  | notModelled (mnemonic : String)
  deriving DecidableEq, Repr

/-- What a step or a meaning answers. -/
abbrev Result := Host.Outcome State Fault Refusal

/-- FRAMECFG after reset: 0x00100302 (10_state.md R28). -/
def FrameCfg.reset : FrameCfg := { sm := 0x02, em := 0x03, chk := .sum8, lw := false, iw := 2 }

/-- The machine right after `rst_n` (70_reset_and_hazards.md R451, R452). The elements R451 calls unspecified are 0
(DESIGN CHOICE, log entry 6); no buffer byte is written. -/
def State.reset : State where
  regs :=
    { ctrl := 0, err := 0, irqEn := 0, frameCfg := FrameCfg.reset, c32init := Config.crc32InitReset, s8 := 0,
      c32 := Config.crc32InitReset, txInstr := 0, ucOk := false }
  tx :=
    { txLen := 0, txBusy := false, txDone := false, txq := [], utxst := .tidle, utxCnt := 0, utxNbit := 0,
      utxB := 0, txb := 0, txbShadow := 0 }
  df :=
    { rxst := .hunt, rxI := 0, rxLen := 0, rxInstr := 0, rxS8 := 0, rxC32 := 0, rxChk := 0, rxJ := 0 }
  hold := { rxFull := false, rxLen := 0, rxInstr := 0, cntBadframe := 0, cntOverrun := 0 }
  urx := { urxst := .idle, urxCnt := 0, urxNbit := 0, urxSh := 0, rawFifo := [], rxb := 0, rxbShadow := 0 }
  tick := { div := Config.bauddivReset, dv := 0, txOwed := false, rxOwed := none }
  pal :=
    { canLen := 0, segN := 0, segLastLen := 0, palN := 0, palLen := 0, keys := 0, palDone := false, palOk := false }
  mem := { txbuf := [], rxbuf := [], asm := [], segbuf := [], palbuf := [], canbuf := [], segd := [], segl := [] }
  env := { rdata := 0, inputs := [], draws := 0, epoch := 0, segEpoch := 0 }

end Sys2Proof.Machine
end

