-- ==== Sys2Proof/Machine/Flags.lean ====
section
/-! DEFINITION. Status and error bits: the bit of each error kind, the enables of CTRL, the codes of the state
machines, what STATUS and FRAMECFG read, and the output pins. -/

namespace Sys2Proof.Machine

/-- The bit of ERR that an error kind sets (60_exceptions.md R401). -/
def Err.bit : Err → Nat
  | .txovf => 0
  | .busy => 1
  | .mode => 2
  | .arg => 3
  | .badop => 4
  | .badaddr => 5
  | .rxfrm => 6
  | .rxovr => 7
  | .rxlong => 8
  | .uartfe => 9
  | .rawovf => 10
  | .canovf => 11
  | .palcrc => 12
  | .palhdr => 13
  | .palabt => 14

/-- ERR as a word with the one bit of a kind (60_exceptions.md R401). -/
def Err.mask (e : Err) : BitVec 15 := (1 : BitVec 15) <<< e.bit

/-- CTRL.RX_EN (10_state.md R23). -/
def State.rxEn (s : State) : Bool := s.regs.ctrl.getLsbD 0
/-- CTRL.TX_EN (10_state.md R23). -/
def State.txEn (s : State) : Bool := s.regs.ctrl.getLsbD 1
/-- CTRL.PASSTHRU (10_state.md R23). -/
def State.passthru (s : State) : Bool := s.regs.ctrl.getLsbD 2

/-- The code of RXST in STATUS (10_state.md R24). -/
def RxState.code : RxState → BitVec 3
  | .hunt => 0
  | .len => 1
  | .instr => 2
  | .pay => 3
  | .chk => 4
  | .endm => 5

/-- The code of URXST in STATUS (10_state.md R24). -/
def UrxState.code : UrxState → BitVec 3
  | .idle => 0
  | .start => 1
  | .data => 2
  | .stop => 3
  | .brk => 4

/-- The code of UTXST in STATUS (10_state.md R24). -/
def UtxState.code : UtxState → BitVec 2
  | .tidle => 0
  | .tstart => 1
  | .tdata => 2
  | .tstop => 3

/-- The value of FRAMECFG.CHK (10_state.md R28). -/
def Chk.code : Chk → BitVec 2
  | .sum8 => 0
  | .crc32 => 1

/-- A bit as a one-bit word. -/
def bit (b : Bool) : BitVec 1 := BitVec.ofBool b

/-- STATUS.PAL_BUSY (10_state.md R24). -/
def State.palBusy (s : State) : Bool := s.pal.keys != 0

/-- STATUS.RAW_AVAIL (10_state.md R24). -/
def State.rawAvail (s : State) : Bool := s.urx.rawFifo.length != 0

/-- The pin `de`, the RS485 driver enable (44_serial.md R306). -/
def State.de (s : State) : Bool := s.tx.txBusy

/-- What STATUS reads (10_state.md R24, 45_control.md R341), bit 31 first. -/
def State.statusWord (s : State) : Word :=
  (0 : BitVec 15) ++ bit s.de ++ s.tx.utxst.code ++ s.urx.urxst.code ++ s.df.rxst.code ++ bit s.rawAvail
    ++ bit s.regs.ucOk ++ bit s.pal.palOk ++ bit s.pal.palDone ++ bit s.palBusy ++ bit s.tx.txDone
    ++ bit s.tx.txBusy ++ bit s.hold.rxFull

/-- What FRAMECFG reads (10_state.md R28), bit 31 first. -/
def FrameCfg.word (c : FrameCfg) : Word :=
  (0 : BitVec 10) ++ BitVec.ofNat 3 c.iw.val ++ bit c.lw ++ c.chk.code ++ c.em ++ c.sm

/-- The pin `irq` (60_exceptions.md R411): any enabled source whose condition holds. -/
def State.irq (s : State) : Bool :=
  (s.hold.rxFull && s.regs.irqEn.getLsbD 0) || (s.tx.txDone && s.regs.irqEn.getLsbD 1)
    || (s.pal.palDone && s.regs.irqEn.getLsbD 2) || (s.regs.err != 0 && s.regs.irqEn.getLsbD 3)
    || (s.rawAvail && s.regs.irqEn.getLsbD 4)

/-- The pin `txd` (44_serial.md R301). -/
def State.txd (s : State) : Bool :=
  match s.tx.utxst with
  | .tidle => true
  | .tstart => false
  | .tdata => s.tx.utxB.getLsbD s.tx.utxNbit
  | .tstop => true

end Sys2Proof.Machine
end

