-- ==== Sys2Proof/Machine/Ops.lean ====
section
/-! DEFINITION. The named operations over memory and registers that the meanings share: the byte stores, the two
ways an error is recorded (the block takes no exception, 60_exceptions.md R413), saturating counts, resets, and the
inputs of the environment. -/

namespace Sys2Proof.Machine

/-- The byte a store lists at an index. -/
def Memory.get : Memory → Nat → Option Byte
  | [], _ => none
  | c :: rest, i => if i = c.1 then some c.2 else Memory.get rest i

/-- A store with one byte written (00_scope.md R9, `buf[i] <- b`), its indices still rising. -/
def Memory.put : Memory → Nat → Byte → Memory
  | [], i, b => [(i, b)]
  | c :: rest, i, b =>
    if i < c.1 then (i, b) :: c :: rest
    else if i = c.1 then (i, b) :: rest
    else c :: Memory.put rest i b

/-- A store with bytes written at rising indices from `i`. -/
def Memory.putList : Memory → Nat → List Byte → Memory
  | m, _, [] => m
  | m, i, b :: bs => Memory.putList (Memory.put m i b) (i + 1) bs

/-- The store of a buffer. -/
def State.store (s : State) : Buffer → Memory
  | .txbuf => s.mem.txbuf
  | .rxbuf => s.mem.rxbuf
  | .asm => s.mem.asm
  | .segbuf => s.mem.segbuf
  | .palbuf => s.mem.palbuf
  | .canbuf => s.mem.canbuf
  | .segd => s.mem.segd
  | .segl => s.mem.segl

/-- The buffers with one store replaced. -/
def Buffers.set (m : Buffers) (b : Buffer) (x : Memory) : Buffers :=
  match b with
  | .txbuf => { m with txbuf := x }
  | .rxbuf => { m with rxbuf := x }
  | .asm => { m with asm := x }
  | .segbuf => { m with segbuf := x }
  | .palbuf => { m with palbuf := x }
  | .canbuf => { m with canbuf := x }
  | .segd => { m with segd := x }
  | .segl => { m with segl := x }

/-- Which unspecified contents a buffer last had: SEGD and SEGL become unspecified at SRST too (log entry 8). -/
def Env.epochOf (e : Env) : Buffer → Nat
  | .segd => e.segEpoch
  | .segl => e.segEpoch
  | .txbuf => e.epoch
  | .rxbuf => e.epoch
  | .asm => e.epoch
  | .segbuf => e.epoch
  | .palbuf => e.epoch
  | .canbuf => e.epoch

/-- The byte a buffer holds: the one written last, or the free byte of 70_reset_and_hazards.md R452. -/
def State.byte (s : State) (b : Buffer) (i : Nat) : Byte :=
  (Memory.get (s.store b) i).getD (Config.bufByte (s.env.epochOf b) b i)

/-- `buf[i .. i+n-1]` (00_scope.md R8). -/
def State.bytes (s : State) (b : Buffer) (i n : Nat) : List Byte :=
  (List.range n).map (fun j => s.byte b (i + j))

/-- `buf[i .. ] <- bs`. -/
def State.putBytes (s : State) (b : Buffer) (i : Nat) (bs : List Byte) : State :=
  { s with mem := s.mem.set b (Memory.putList (s.store b) i bs) }

/-- `flag Err(e)` (00_scope.md R9): the ERR bit is set and the step carries on. -/
def flagErr (e : Err) (s : State) : State :=
  { s with regs := { s.regs with err := s.regs.err ||| e.mask } }

/-- `raise Err(e)` (00_scope.md R9): a refusal, which changes nothing but its ERR bit (60_exceptions.md R402). -/
def refuse (e : Err) (s : State) : Result := .next (flagErr e s)

/-- The bus returns `v` to the host (45_control.md R341). -/
def setRdata (v : Word) (s : State) : State := { s with env := { s.env with rdata := v } }

/-- `sat_64(v + 1)` (10_state.md R47). -/
def satInc64 (v : BitVec 64) : BitVec 64 := if v = BitVec.allOnes 64 then v else v + 1

/-- `sat_16(v + 1)` (10_state.md R48). -/
def satInc16 (v : BitVec 16) : BitVec 16 := if v = BitVec.allOnes 16 then v else v + 1

/-- Every register and internal element at its reset value, buffer contents kept (45_control.md R351); SEGD and SEGL
are unspecified again. The tick an engine is still owed stays owed (log entry 8). -/
def softReset (s : State) : State :=
  { State.reset with
    tick := { State.reset.tick with txOwed := s.tick.txOwed, rxOwed := s.tick.rxOwed }
    mem := { s.mem with segd := [], segl := [] }
    env := { s.env with segEpoch := s.env.segEpoch + 1 } }

/-- `rst_n` low at a clock edge: everything at its reset value, every buffer byte unspecified anew
(70_reset_and_hazards.md R450 to R452, log entry 13). -/
def hardReset (s : State) : State :=
  { State.reset with env := { s.env with epoch := s.env.epoch + 1, segEpoch := s.env.segEpoch + 1 } }

/-- The input the next step takes: the first one known, or one the environment supplies (log entry 1). -/
def State.nextInput (s : State) : Input :=
  match s.env.inputs with
  | i :: _ => i
  | [] => Config.input s.env.draws

/-- The state with that input taken. -/
def State.popInput (s : State) : State :=
  match s.env.inputs with
  | _ :: rest => { s with env := { s.env with inputs := rest } }
  | [] => { s with env := { s.env with draws := s.env.draws + 1 } }

end Sys2Proof.Machine
end

