-- ==== Sys2Proof/Machine/Operands.lean ====
section
/-! DEFINITION. What a bus address names (10_state.md R22, 20_memory.md R72, R74, R82): a register, a byte of a
buffer window, or nothing. -/

namespace Sys2Proof.Machine

/-- The registers of the register map (10_state.md R22). -/
inductive Reg where
  | ctrl | status | err | irqEn | cmd | framecfg | bauddiv | c32init | s8 | c32 | txinstr | txlen | txdata | rxlen
  | rxinstr | canlen | candata | seginfo | palinfo | rawdata | rawcnt | rxbytesLo | rxbytesHi | txbytesLo
  | txbytesHi | cntBadframe | cntOverrun | palkeys (i : Fin 4)
  deriving DecidableEq, Repr

/-- The register map, each register 4 bytes after the one before it, from 0x000 (10_state.md R22). -/
def regMap : List Reg :=
  [ .ctrl, .status, .err, .irqEn, .cmd, .framecfg, .bauddiv, .c32init,
    .s8, .c32, .txinstr, .txlen, .txdata, .rxlen, .rxinstr, .canlen,
    .candata, .seginfo, .palinfo, .rawdata, .rawcnt, .rxbytesLo, .rxbytesHi, .txbytesLo,
    .txbytesHi, .cntBadframe, .cntOverrun, .palkeys 0, .palkeys 1, .palkeys 2, .palkeys 3 ]

/-- What an address names. -/
inductive Target where
  | reg (r : Reg)
  | window (b : Buffer) (i : Nat)
  | unmapped
  deriving DecidableEq, Repr

/-- An unmapped address (20_memory.md R74). -/
def unmapped (a : Addr) : Bool :=
  a.toNat % 4 != 0 || (0x007C ≤ a.toNat && a.toNat ≤ 0x0FFF) || 0x5020 ≤ a.toNat

/-- What an address names: the map of 20_memory.md R82. -/
def target (a : Addr) : Target :=
  if unmapped a then .unmapped
  else if a.toNat < 0x1000 then
    match regMap[a.toNat / 4]? with
    | some r => .reg r
    | none => .unmapped
  else if a.toNat < 0x2000 then .window .txbuf ((a.toNat - 0x1000) / 4)
  else if a.toNat < 0x3000 then .window .rxbuf ((a.toNat - 0x2000) / 4)
  else if a.toNat < 0x4000 then .window .segbuf ((a.toNat - 0x3000) / 4)
  else if a.toNat < 0x5000 then .window .palbuf ((a.toNat - 0x4000) / 4)
  else .window .canbuf ((a.toNat - 0x5000) / 4)

end Sys2Proof.Machine
end

