-- ==== Sys2Proof/Machine/Control.lean ====
section
/-! DEFINITION. The control commands (45_control.md, section 4): NOP, SRST, TXB_CLR, RXB_REL, CANB_CLR. -/

namespace Sys2Proof.Machine

/-- NOP (45_control.md R350). -/
def execNop (s : State) : Result := .next s

/-- SRST (45_control.md R351). -/
def execSrst (s : State) : Result := .next (softReset s)

/-- TXB_CLR (45_control.md R352). -/
def execTxbClr (s : State) : Result :=
  if s.tx.txBusy then refuse .busy s else .next { s with tx := { s.tx with txLen := 0 } }

/-- RXB_REL (45_control.md R353). -/
def execRxbRel (s : State) : Result := .next { s with hold := { s.hold with rxFull := false } }

/-- CANB_CLR (45_control.md R354). -/
def execCanbClr (s : State) : Result := .next { s with pal := { s.pal with canLen := 0 } }

end Sys2Proof.Machine
end

