-- ==== Sys2Proof/Machine/Checksum.lean ====
section
/-! DEFINITION. The check algorithms (40_checksum.md R140, R141, R144) and the four commands of the host's checksum
units (R142, R143, R145, R146). -/

namespace Sys2Proof.Machine

/-- SUM8 (40_checksum.md R140). -/
def sum8 (a : Byte) (bs : List Byte) : Byte := bs.foldl (fun x b => x + b) a

/-- One of the eight shifts of CRC32_BYTE (40_checksum.md R141). -/
def crc32Shift (c : Word) : Word := if c.getLsbD 0 then (c >>> 1) ^^^ 0xEDB88320 else c >>> 1

/-- CRC32_BYTE (40_checksum.md R141). -/
def crc32Byte (c : Word) (b : Byte) : Word :=
  Nat.repeat crc32Shift 8 (c ^^^ b.setWidth 32)

/-- CRC32 (40_checksum.md R141). -/
def crc32 (init : Word) (bs : List Byte) : Word := bs.foldl crc32Byte init

/-- LE32 (40_checksum.md R144): least significant byte first. -/
def le32 (c : Word) : List Byte :=
  [c.extractLsb' 0 8, c.extractLsb' 8 8, c.extractLsb' 16 8, c.extractLsb' 24 8]

/-- S8_CLR (40_checksum.md R142). -/
def execS8Clr (s : State) : Result := .next { s with regs := { s.regs with s8 := 0 } }

/-- S8_ADD b (40_checksum.md R143). -/
def execS8Add (b : Byte) (s : State) : Result :=
  .next { s with regs := { s.regs with s8 := s.regs.s8 + b } }

/-- C32_INIT (40_checksum.md R145). -/
def execC32Init (s : State) : Result := .next { s with regs := { s.regs with c32 := s.regs.c32init } }

/-- C32_ADD b (40_checksum.md R146). -/
def execC32Add (b : Byte) (s : State) : Result :=
  .next { s with regs := { s.regs with c32 := crc32Byte s.regs.c32 b } }

end Sys2Proof.Machine
end

