-- ==== Sys2Proof/Machine/FrameTx.lean ====
section
/-! DEFINITION. The frame encoder (41_frame_tx.md): the frame of a payload (R170) and the commands TX_FRAME (R172)
and TX_RAW (R178). -/

namespace Sys2Proof.Machine

/-- LENF, the length field (30_encoding.md R111): two bytes when LW = 1, most significant first. -/
def lenField (cfg : FrameCfg) (n : Nat) : List Byte :=
  if cfg.lw then [BitVec.ofNat 8 (n / 256), BitVec.ofNat 8 n] else [BitVec.ofNat 8 n]

/-- INSTRF, the instruction field (30_encoding.md R112): the low IW bytes, most significant first. -/
def instrField (cfg : FrameCfg) (t : Word) : List Byte :=
  (List.range cfg.iw.val).map (fun k => t.extractLsb' (8 * (cfg.iw.val - 1 - k)) 8)

/-- COV, the covered bytes (30_encoding.md R113). -/
def covered (cfg : FrameCfg) (t : Word) (p : List Byte) : List Byte :=
  lenField cfg p.length ++ instrField cfg t ++ p

/-- CHECKF, the check field (30_encoding.md R113). -/
def checkField (cfg : FrameCfg) (init : Word) (cov : List Byte) : List Byte :=
  match cfg.chk with
  | .sum8 => [sum8 0 cov]
  | .crc32 => le32 (crc32 init cov)

/-- FRAME (41_frame_tx.md R170). -/
def frameOf (cfg : FrameCfg) (init t : Word) (p : List Byte) : List Byte :=
  [cfg.sm] ++ covered cfg t p ++ checkField cfg init (covered cfg t p) ++ [cfg.em]

/-- A transmission of bytes is accepted (41_frame_tx.md R172, R178). -/
def startTx (q : List Byte) (s : State) : State :=
  { s with tx := { s.tx with txq := q, txDone := false, txBusy := true } }

/-- TX_FRAME (41_frame_tx.md R172). -/
def execTxFrame (s : State) : Result :=
  if s.tx.txBusy then refuse .busy s
  else if !s.txEn || s.passthru then refuse .mode s
  else if !s.regs.frameCfg.lw && decide (255 < s.tx.txLen) then refuse .arg s
  else .next (startTx (frameOf s.regs.frameCfg s.regs.c32init s.regs.txInstr (s.bytes .txbuf 0 s.tx.txLen)) s)

/-- TX_RAW (41_frame_tx.md R178). -/
def execTxRaw (s : State) : Result :=
  if s.tx.txBusy then refuse .busy s
  else if !s.txEn || !s.passthru then refuse .mode s
  else if s.tx.txLen = 0 then .next { s with tx := { s.tx with txDone := true } }
  else .next (startTx (s.bytes .txbuf 0 s.tx.txLen) s)

end Sys2Proof.Machine
end

