-- ==== Sys2Proof/Machine/Pallet.lean ====
section
/-! DEFINITION. The uCAN and pallet commands (43_ucan_pallet.md): UC_BUILD, UC_CHECK, PAL_TX, PAL_SEG, PAL_ABORT. -/

namespace Sys2Proof.Machine

/-- UC_BUILD (43_ucan_pallet.md R240). -/
def execUcBuild (s : State) : Result :=
  if s.tx.txBusy then refuse .busy s
  else if 7 < s.tx.txLen then refuse .arg s
  else
    let check := sum8 0 (s.bytes .txbuf 0 s.tx.txLen)
    .next { s.putBytes .txbuf s.tx.txLen (check :: List.replicate (7 - s.tx.txLen) 0) with
            tx := { s.tx with txLen := 8 } }

/-- UC_CHECK L (43_ucan_pallet.md R242). -/
def execUcCheck (l : BitVec 3) (s : State) : Result :=
  if s.pal.canLen ≤ l.toNat then refuse .arg s
  else
    .next { s with regs := { s.regs with
      ucOk := sum8 0 (s.bytes .canbuf 0 l.toNat) == s.byte .canbuf l.toNat } }

/-- The pallet buffer of some data (30_encoding.md R122). -/
def palletBuffer (init : Word) (d : List Byte) : List Byte := d ++ le32 (crc32 init d)

/-- The number of segments of a pallet buffer of T bytes (43_ucan_pallet.md R245). -/
def segCount (t : Nat) : Nat := (t + 6) / 7

/-- The header of segment i of N (43_ucan_pallet.md R246). -/
def segHeader (n i : Nat) : Byte :=
  (if i = 0 then (0x80 : Byte) else 0) ||| BitVec.ofNat 8 (n - 1 - i)

/-- The data of segment i of a pallet buffer (43_ucan_pallet.md R248). -/
def segChunk (buf : List Byte) (i : Nat) : List Byte := (buf.drop (7 * i)).take 7

/-- The 8 bytes of slot i of SEGBUF (30_encoding.md R124). -/
def segSlot (buf : List Byte) (n i : Nat) : List Byte :=
  segHeader n i :: (segChunk buf i ++ List.replicate (7 - (segChunk buf i).length) 0)

/-- The slots of a whole pallet buffer, slot 0 first (43_ucan_pallet.md R245). -/
def segSlots (buf : List Byte) : List Byte :=
  (List.range (segCount buf.length)).flatMap (segSlot buf (segCount buf.length))

/-- PAL_TX (43_ucan_pallet.md R245). -/
def execPalTx (s : State) : Result :=
  if Config.palMaxData < s.tx.txLen then refuse .arg s
  else
    let buf := palletBuffer s.regs.c32init (s.bytes .txbuf 0 s.tx.txLen)
    let n := segCount buf.length
    .next { s.putBytes .segbuf 0 (segSlots buf) with
            pal := { s.pal with segN := n, segLastLen := buf.length - 7 * (n - 1) } }

/-- FINISH (43_ucan_pallet.md R250). -/
def palFinish (s : State) : State :=
  { s with pal := { s.pal with palDone := true, keys := 0, palN := 0 } }

/-- FAIL(e) (43_ucan_pallet.md R250). -/
def palFail (e : Err) (s : State) : State :=
  palFinish { flagErr e s with pal := { s.pal with palLen := 0, palOk := false } }

/-- The data buffered for key k: SEGD[k][0 .. SEGL[k]-1] (10_state.md R42). -/
def State.segData (s : State) (k : Nat) : List Byte := s.bytes .segd (8 * k) (s.byte .segl k).toNat

/-- The reassembled buffer: keys PAL_N - 1 down to 0 (43_ucan_pallet.md R254). -/
def State.reassembled (s : State) : List Byte :=
  (List.range s.pal.palN).reverse.flatMap s.segData

/-- COMPLETE (43_ucan_pallet.md R250, R254, R255). -/
def palComplete (s : State) : State :=
  let buf := s.reassembled
  if 4 ≤ buf.length ∧ crc32 s.regs.c32init buf = 0 then
    palFinish { s.putBytes .palbuf 0 (buf.take (buf.length - 4)) with
                pal := { s.pal with palLen := buf.length - 4, palOk := true } }
  else palFail .palcrc s

/-- The segment in CANBUF is buffered under its key (43_ucan_pallet.md R250, R259). -/
def palBuffer (k : Nat) (s : State) : State :=
  let m := s.pal.canLen - 1
  let s := s.putBytes .segd (8 * k) (s.bytes .canbuf 1 m)
  let s := s.putBytes .segl k [BitVec.ofNat 8 m]
  { s with pal := { s.pal with keys := s.pal.keys ||| ((1 : BitVec 128) <<< k) } }

/-- A reassembly is complete when the keys are exactly 0 to PAL_N - 1 (43_ucan_pallet.md R253). -/
def State.palAll (s : State) : Bool := s.pal.palN != 0 && s.pal.keys.toNat == 2 ^ s.pal.palN - 1

/-- A segment is taken, and the reassembly completed if it was the last (43_ucan_pallet.md R250). -/
def palTake (k : Nat) (s : State) : State :=
  if (palBuffer k s).palAll then palComplete (palBuffer k s) else palBuffer k s

/-- PAL_SEG (43_ucan_pallet.md R250, R251). -/
def execPalSeg (s : State) : Result :=
  if s.pal.canLen = 0 then refuse .arg s
  else
    let h := s.byte .canbuf 0
    let k := (h.extractLsb' 0 7).toNat
    if h.getLsbD 7 then
      if s.pal.palN = 0 then .next (palTake k { s with pal := { s.pal with palN := k + 1 } })
      else if s.pal.palN ≠ k + 1 then .next (palFail .palhdr s)
      else .next (palTake k s)
    else .next (palTake k s)

/-- PAL_ABORT (43_ucan_pallet.md R256). -/
def execPalAbort (s : State) : Result :=
  if s.pal.keys = 0 then .next s else .next (palFail .palabt s)

end Sys2Proof.Machine
end

