-- ==== Sys2Proof/Machine/FrameRx.lean ====
section
/-! DEFINITION. The frame decoder (42_frame_rx.md): DEFRAME with its steps (R201 to R212), and its answer to a UART
framing error (R213). -/

namespace Sys2Proof.Machine

/-- The deframer set to HUNT (42_frame_rx.md R214). -/
def toHunt (s : State) : State := { s with df := { s.df with rxst := .hunt } }

/-- ACC (42_frame_rx.md R201). -/
def Deframer.acc (d : Deframer) (b : Byte) : Deframer :=
  { d with rxS8 := d.rxS8 + b, rxC32 := crc32Byte d.rxC32 b }

/-- The state after the length and instruction fields: CHK for an empty payload (42_frame_rx.md R201, R206). -/
def afterHeader (len : BitVec 16) : RxState := if len = 0 then .chk else .pay

/-- HUNT: a start marker begins a frame, any other byte is noise (42_frame_rx.md R202). -/
def hunt (b : Byte) (s : State) : State :=
  if b = s.regs.frameCfg.sm then
    { s with df := { s.df with rxst := .len, rxI := 0, rxLen := 0, rxInstr := 0, rxJ := 0, rxS8 := 0,
                               rxC32 := s.regs.c32init } }
  else s

/-- The frame in progress is given up and counted (42_frame_rx.md R201, R213). -/
def dropFrame (e : Err) (s : State) : State :=
  toHunt { flagErr e s with hold := { s.hold with cntBadframe := satInc16 s.hold.cntBadframe } }

/-- DROP: the frame is given up and the byte examined once more, in HUNT (42_frame_rx.md R201, R212). -/
def drop (e : Err) (b : Byte) (s : State) : State := hunt b (dropFrame e s)

/-- ACCEPT (42_frame_rx.md R211). -/
def accept (s : State) : State :=
  if s.hold.rxFull then
    { flagErr .rxovr s with hold := { s.hold with cntOverrun := satInc16 s.hold.cntOverrun } }
  else
    { s.putBytes .rxbuf 0 (s.bytes .asm 0 s.df.rxLen.toNat) with
      hold := { s.hold with rxLen := s.df.rxLen.toNat, rxInstr := s.df.rxInstr, rxFull := true } }

/-- How many bytes the length field has (42_frame_rx.md R201, LB). -/
def lenBytes (cfg : FrameCfg) : Nat := if cfg.lw then 2 else 1

/-- LEN (42_frame_rx.md R203, R204). -/
def stepLen (b : Byte) (s : State) : State :=
  let d := s.df.acc b
  let len : BitVec 16 := (d.rxLen <<< 8) ||| b.setWidth 16
  if d.rxI + 1 = lenBytes s.regs.frameCfg then
    if Config.maxRxLen < len.toNat then
      drop .rxlong b { s with df := { d with rxLen := len, rxI := d.rxI + 1 } }
    else
      { s with df := { d with rxLen := len, rxI := 0,
                              rxst := if 0 < s.regs.frameCfg.iw.val then .instr else afterHeader len } }
  else { s with df := { d with rxLen := len, rxI := d.rxI + 1 } }

/-- INSTR (42_frame_rx.md R205). -/
def stepInstr (b : Byte) (s : State) : State :=
  let d := s.df.acc b
  let instr : Word := (d.rxInstr <<< 8) ||| b.setWidth 32
  if d.rxI + 1 = s.regs.frameCfg.iw.val then
    { s with df := { d with rxInstr := instr, rxI := 0, rxst := afterHeader d.rxLen } }
  else { s with df := { d with rxInstr := instr, rxI := d.rxI + 1 } }

/-- PAY (42_frame_rx.md R206). -/
def stepPay (b : Byte) (s : State) : State :=
  let d := s.df.acc b
  { s.putBytes .asm s.df.rxJ [b] with
    df := { d with rxJ := d.rxJ + 1, rxst := if d.rxJ + 1 = d.rxLen.toNat then .chk else .pay } }

/-- CHK (42_frame_rx.md R207, R208). -/
def stepChk (b : Byte) (s : State) : State :=
  match s.regs.frameCfg.chk with
  | .sum8 => { s with df := { s.df with rxChk := b, rxst := .endm } }
  | .crc32 =>
    { s with df := { s.df with rxC32 := crc32Byte s.df.rxC32 b, rxI := s.df.rxI + 1,
                               rxst := if s.df.rxI + 1 = 4 then .endm else .chk } }

/-- Is the check of the frame in progress good (42_frame_rx.md R210)? -/
def frameGood (s : State) : Bool :=
  match s.regs.frameCfg.chk with
  | .sum8 => s.df.rxS8 == s.df.rxChk
  | .crc32 => s.df.rxC32 == 0

/-- END (42_frame_rx.md R209 to R211). -/
def stepEnd (b : Byte) (s : State) : State :=
  if b ≠ s.regs.frameCfg.em then drop .rxfrm b s
  else if !frameGood s then drop .rxfrm b s
  else toHunt (accept s)

/-- DEFRAME(b) (42_frame_rx.md R201). -/
def deframe (b : Byte) (s : State) : State :=
  match s.df.rxst with
  | .hunt => hunt b s
  | .len => stepLen b s
  | .instr => stepInstr b s
  | .pay => stepPay b s
  | .chk => stepChk b s
  | .endm => stepEnd b s

/-- A UART framing error outside passthrough abandons the frame in progress (42_frame_rx.md R213). -/
def deframeFramingError (s : State) : State :=
  if s.df.rxst = .hunt then s else dropFrame .rxfrm s

end Sys2Proof.Machine
end

