-- ==== Sys2Proof/Machine/Serial.lean ====
section
/-! DEFINITION. The serial side (44_serial.md): the bit clock (R290), the serializer (R302 to R305), the sampler
(R310 to R315), the routing of received bytes (R317, R320, R321), and the engines' steps. -/

namespace Sys2Proof.Machine

/-- The next byte of TXQ is loaded, if there is one (44_serial.md R302). -/
def loadByte (t : Transmitter) : Transmitter :=
  match t.txq with
  | [] => t
  | b :: rest => { t with utxB := b, txq := rest, utxCnt := 0, utxst := .tstart }

/-- The end of a transmission (44_serial.md R305). -/
def endTx (t : Transmitter) : Transmitter :=
  if t.txBusy then { t with txBusy := false, txDone := true } else t

/-- The end of a character: the next byte follows with no gap, or the transmission ends (44_serial.md R304). -/
def endChar (t : Transmitter) : Transmitter :=
  match t.txq with
  | [] => endTx { t with txb := satInc64 t.txb, utxCnt := t.utxCnt + 1, utxst := .tidle }
  | _ :: _ => loadByte { t with txb := satInc64 t.txb }

/-- One tick of the serializer (44_serial.md R302 to R305). -/
def serializerTick (t : Transmitter) : Transmitter :=
  match t.utxst with
  | .tidle => loadByte t
  | .tstart =>
    if t.utxCnt + 1 = Config.ovs then { t with utxst := .tdata, utxCnt := 0, utxNbit := 0 }
    else { t with utxCnt := t.utxCnt + 1 }
  | .tdata =>
    if t.utxCnt + 1 = Config.ovs then
      { t with utxCnt := 0, utxNbit := t.utxNbit + 1, utxst := if t.utxNbit + 1 = 8 then .tstop else .tdata }
    else { t with utxCnt := t.utxCnt + 1 }
  | .tstop =>
    if t.utxCnt + 1 = Config.ovs then endChar t else { t with utxCnt := t.utxCnt + 1 }

/-- A byte received in passthrough mode (44_serial.md R320, R321). -/
def pushRaw (b : Byte) (s : State) : State :=
  if s.urx.rawFifo.length < Config.rawDepth then { s with urx := { s.urx with rawFifo := s.urx.rawFifo ++ [b] } }
  else flagErr .rawovf s

/-- `deliver(b)` (44_serial.md R317). -/
def deliver (b : Byte) (s : State) : State := if s.passthru then pushRaw b s else deframe b s

/-- A good character is complete (44_serial.md R313): the event Byte(b) of R318. -/
def receiveByte (b : Byte) (s : State) : State :=
  deliver b { s with urx := { s.urx with rxb := satInc64 s.urx.rxb } }

/-- A character had a framing error (44_serial.md R314): the event FramingError of R318. -/
def receiveFramingError (s : State) : State :=
  if s.passthru then flagErr .uartfe s else deframeFramingError (flagErr .uartfe s)

/-- The sampler put in a state. -/
def setUrxst (x : UrxState) (s : State) : State := { s with urx := { s.urx with urxst := x } }

/-- `v[i] <- r` (44_serial.md R312). -/
def setBit (v : Byte) (i : Nat) (r : Bool) : Byte :=
  if r then v ||| ((1 : Byte) <<< i) else v &&& ~~~((1 : Byte) <<< i)

/-- One tick of the sampler with `rxd` at level `r` (44_serial.md R310 to R315). -/
def samplerTick (r : Bool) (s : State) : State :=
  if !s.rxEn then setUrxst .idle s
  else
    match s.urx.urxst with
    | .idle => if r then s else { s with urx := { s.urx with urxst := .start, urxCnt := 0 } }
    | .start =>
      if s.urx.urxCnt + 1 = 8 then
        if r then { s with urx := { s.urx with urxCnt := s.urx.urxCnt + 1, urxst := .idle } }
        else { s with urx := { s.urx with urxst := .data, urxCnt := 0, urxNbit := 0, urxSh := 0 } }
      else { s with urx := { s.urx with urxCnt := s.urx.urxCnt + 1 } }
    | .data =>
      if s.urx.urxCnt + 1 = Config.ovs then
        { s with urx := { s.urx with urxSh := setBit s.urx.urxSh s.urx.urxNbit r, urxNbit := s.urx.urxNbit + 1,
                                     urxCnt := 0, urxst := if s.urx.urxNbit + 1 = 8 then .stop else .data } }
      else { s with urx := { s.urx with urxCnt := s.urx.urxCnt + 1 } }
    | .stop =>
      if s.urx.urxCnt + 1 = Config.ovs then
        let s' : State := { s with urx := { s.urx with urxCnt := s.urx.urxCnt + 1 } }
        if r then setUrxst .idle (receiveByte s.urx.urxSh s') else setUrxst .brk (receiveFramingError s')
      else { s with urx := { s.urx with urxCnt := s.urx.urxCnt + 1 } }
    | .brk => if r then setUrxst .idle s else s

/-- The serializer's step: it takes the tick it is owed (log entry 2). -/
def serializerStep (s : State) : State :=
  if s.tick.txOwed then { s with tx := serializerTick s.tx, tick := { s.tick with txOwed := false } } else s

/-- The sampler's step: it takes the tick it is owed, with the level `rxd` had at that tick (log entries 2, 3). -/
def samplerStep (s : State) : State :=
  match s.tick.rxOwed with
  | some r => samplerTick r { s with tick := { s.tick with rxOwed := none } }
  | none => s

/-- The tick generator's step at a rising edge of `clk` (44_serial.md R290): a tick is owed to both engines. -/
def clockEdge (rxd : Bool) (s : State) : State :=
  if s.tick.dv = s.tick.div then { s with tick := { s.tick with dv := 0, txOwed := true, rxOwed := some rxd } }
  else { s with tick := { s.tick with dv := s.tick.dv + 1 } }

/-- A clock edge is the next input. An engine still owed the last tick takes it first, and the edge waits (log
entry 2). -/
def clockStep (rxd : Bool) (s : State) : State :=
  if s.tick.txOwed then serializerStep s
  else if s.tick.rxOwed.isSome then samplerStep s
  else clockEdge rxd s.popInput

end Sys2Proof.Machine
end

