-- ==== Sys2Proof/Machine/Bus.lean ====
section
/-! DEFINITION. The bus accesses (45_control.md): what each register reads and what a read does (R341), what a write
does (R342 to R349), and the command word written to CMD (R355). -/

namespace Sys2Proof.Machine

/-- What a register reads (45_control.md R341). -/
def readValue (r : Reg) (s : State) : Word :=
  match r with
  | .ctrl => s.regs.ctrl.setWidth 32
  | .status => s.statusWord
  | .err => s.regs.err.setWidth 32
  | .irqEn => s.regs.irqEn.setWidth 32
  | .cmd => 0
  | .framecfg => s.regs.frameCfg.word
  | .bauddiv => s.tick.div.setWidth 32
  | .c32init => s.regs.c32init
  | .s8 => s.regs.s8.setWidth 32
  | .c32 => s.regs.c32
  | .txinstr => s.regs.txInstr
  | .txlen => (BitVec.ofNat 11 s.tx.txLen).setWidth 32
  | .txdata => 0
  | .rxlen => (BitVec.ofNat 11 s.hold.rxLen).setWidth 32
  | .rxinstr => s.hold.rxInstr
  | .canlen => (BitVec.ofNat 4 s.pal.canLen).setWidth 32
  | .candata => 0
  | .seginfo => (0 : BitVec 20) ++ BitVec.ofNat 4 s.pal.segLastLen ++ BitVec.ofNat 8 s.pal.segN
  | .palinfo => (0 : BitVec 14) ++ BitVec.ofNat 10 s.pal.palLen ++ BitVec.ofNat 8 s.pal.palN
  | .rawdata =>
    match s.urx.rawFifo with
    | [] => 0
    | b :: _ => (0 : BitVec 23) ++ (1 : BitVec 1) ++ b
  | .rawcnt => (BitVec.ofNat 5 s.urx.rawFifo.length).setWidth 32
  | .rxbytesLo => s.urx.rxb.extractLsb' 0 32
  | .rxbytesHi => s.urx.rxbShadow
  | .txbytesLo => s.tx.txb.extractLsb' 0 32
  | .txbytesHi => s.tx.txbShadow
  | .cntBadframe => s.hold.cntBadframe.setWidth 32
  | .cntOverrun => s.hold.cntOverrun.setWidth 32
  | .palkeys i => s.pal.keys.extractLsb' (32 * i.val) 32

/-- What reading a register does: only RAWDATA, RXBYTES_LO and TXBYTES_LO do anything (20_memory.md R80). -/
def readEffect (r : Reg) (s : State) : State :=
  match r with
  | .rawdata => { s with urx := { s.urx with rawFifo := s.urx.rawFifo.tail } }
  | .rxbytesLo => { s with urx := { s.urx with rxbShadow := s.urx.rxb.extractLsb' 32 32 } }
  | .txbytesLo => { s with tx := { s.tx with txbShadow := s.tx.txb.extractLsb' 32 32 } }
  | .ctrl | .status | .err | .irqEn | .cmd | .framecfg | .bauddiv | .c32init | .s8 | .c32 | .txinstr | .txlen
  | .txdata | .rxlen | .rxinstr | .canlen | .candata | .seginfo | .palinfo | .rawcnt | .rxbytesHi | .txbytesHi
  | .cntBadframe | .cntOverrun | .palkeys _ => s

/-- BusRead(a) (45_control.md R341). -/
def execBusRead (a : Addr) (s : State) : Result :=
  match target a with
  | .unmapped => .next (setRdata 0 (flagErr .badaddr s))
  | .window b i => .next (setRdata ((s.byte b i).setWidth 32) s)
  | .reg r => .next (setRdata (readValue r s) (readEffect r s))

/-- The command word `v` written to CMD is executed, or refused with BADOP (30_encoding.md R104, 45_control.md
R355). The decoder gives only commands here, never a bus access (`decodeCmd_isCommand`). -/
def runCommand (v : Word) (s : State) : Result :=
  match decodeCmd v with
  | .error _ => refuse .badop s
  | .ok .nop => execNop s
  | .ok .srst => execSrst s
  | .ok .s8Clr => execS8Clr s
  | .ok (.s8Add b) => execS8Add b s
  | .ok .c32Init => execC32Init s
  | .ok (.c32Add b) => execC32Add b s
  | .ok .txbClr => execTxbClr s
  | .ok .rxbRel => execRxbRel s
  | .ok .canbClr => execCanbClr s
  | .ok .txFrame => execTxFrame s
  | .ok .txRaw => execTxRaw s
  | .ok .ucBuild => execUcBuild s
  | .ok (.ucCheck l) => execUcCheck l s
  | .ok .palTx => execPalTx s
  | .ok .palSeg => execPalSeg s
  | .ok .palAbort => execPalAbort s
  | .ok (.busRead _) => refuse .badop s
  | .ok (.busWrite _ _) => refuse .badop s

/-- CTRL write (45_control.md R347). -/
def writeCtrl (v : Word) (s : State) : State :=
  let s1 : State := { s with regs := { s.regs with ctrl := v.extractLsb' 0 3 } }
  let s2 : State := if s.rxEn && !v.getLsbD 0 then setUrxst .idle (toHunt s1) else s1
  if !s.passthru && v.getLsbD 2 then toHunt s2 else s2

/-- STATUS write: a 1 clears TX_DONE or PAL_DONE (45_control.md R344). -/
def writeStatus (v : Word) (s : State) : State :=
  { s with
    tx := { s.tx with txDone := s.tx.txDone && !v.getLsbD 2 }
    pal := { s.pal with palDone := s.pal.palDone && !v.getLsbD 4 } }

/-- ERR write: a 1 clears the bit (45_control.md R344). -/
def writeErr (v : Word) (s : State) : State :=
  { s with regs := { s.regs with err := s.regs.err &&& ~~~(v.extractLsb' 0 15) } }

/-- The legal value a write gives CHK: 2 and 3 leave it (10_state.md R28). -/
def chkOf (v : BitVec 2) (old : Chk) : Chk :=
  if v = 0 then .sum8 else if v = 1 then .crc32 else old

/-- The legal value a write gives IW: 5 to 7 leave it (10_state.md R28). -/
def iwOf (v : BitVec 3) (old : Fin 5) : Fin 5 :=
  if h : v.toNat < 5 then ⟨v.toNat, h⟩ else old

/-- The framing a FRAMECFG write gives (45_control.md R348). -/
def frameCfgOf (v : Word) (old : FrameCfg) : FrameCfg where
  sm := v.extractLsb' 0 8
  em := v.extractLsb' 8 8
  chk := chkOf (v.extractLsb' 16 2) old.chk
  lw := v.getLsbD 18
  iw := iwOf (v.extractLsb' 19 3) old.iw

/-- FRAMECFG write (45_control.md R348). -/
def writeFramecfg (v : Word) (s : State) : Result :=
  if s.tx.txBusy then refuse .busy s
  else .next (toHunt { s with regs := { s.regs with frameCfg := frameCfgOf v s.regs.frameCfg } })

/-- BAUDDIV write (45_control.md R349). -/
def writeBauddiv (v : Word) (s : State) : State :=
  { s with tick := { s.tick with div := v.extractLsb' 0 16, dv := 0 } }

/-- C32INIT write (45_control.md R342). -/
def writeC32init (v : Word) (s : State) : Result :=
  if s.tx.txBusy then refuse .busy s else .next { s with regs := { s.regs with c32init := v } }

/-- TXINSTR write (45_control.md R342). -/
def writeTxinstr (v : Word) (s : State) : Result :=
  if s.tx.txBusy then refuse .busy s else .next { s with regs := { s.regs with txInstr := v } }

/-- TXDATA push (45_control.md R345). -/
def writeTxdata (v : Word) (s : State) : Result :=
  if s.tx.txBusy then refuse .busy s
  else if s.tx.txLen = Config.bufSize then refuse .txovf s
  else
    .next { s.putBytes .txbuf s.tx.txLen [v.extractLsb' 0 8] with tx := { s.tx with txLen := s.tx.txLen + 1 } }

/-- CANDATA push (45_control.md R346). -/
def writeCandata (v : Word) (s : State) : Result :=
  if s.pal.canLen = Config.canSize then refuse .canovf s
  else
    .next { s.putBytes .canbuf s.pal.canLen [v.extractLsb' 0 8] with
            pal := { s.pal with canLen := s.pal.canLen + 1 } }

/-- What writing `v` to a register does (45_control.md R342); a write to a read-only register is ignored (R343). -/
def writeReg (r : Reg) (v : Word) (s : State) : Result :=
  match r with
  | .ctrl => .next (writeCtrl v s)
  | .status => .next (writeStatus v s)
  | .err => .next (writeErr v s)
  | .irqEn => .next { s with regs := { s.regs with irqEn := v.extractLsb' 0 5 } }
  | .cmd => runCommand v s
  | .framecfg => writeFramecfg v s
  | .bauddiv => .next (writeBauddiv v s)
  | .c32init => writeC32init v s
  | .s8 => .next { s with regs := { s.regs with s8 := v.extractLsb' 0 8 } }
  | .c32 => .next { s with regs := { s.regs with c32 := v } }
  | .txinstr => writeTxinstr v s
  | .txdata => writeTxdata v s
  | .candata => writeCandata v s
  | .txlen | .rxlen | .rxinstr | .canlen | .seginfo | .palinfo | .rawdata | .rawcnt | .rxbytesLo | .rxbytesHi
  | .txbytesLo | .txbytesHi | .cntBadframe | .cntOverrun | .palkeys _ => .next s

/-- BusWrite(a, v) (45_control.md R342). -/
def execBusWrite (a : Addr) (v : Word) (s : State) : Result :=
  match target a with
  | .unmapped => refuse .badaddr s
  | .window _ _ => .next s
  | .reg r => writeReg r v s

end Sys2Proof.Machine
end

