-- ==== Sys2Proof/Machine/Dispatch.lean ====
section
/-! DEFINITION. The one dispatch from an instruction to its meaning (00_scope.md R2): one arm for each constructor. -/

namespace Sys2Proof.Machine

def exec (i : Instr) (s : State) : Host.Outcome State Fault Refusal :=
  match i with
  | .nop => Sys2Proof.Machine.execNop s
  | .srst => Sys2Proof.Machine.execSrst s
  | .s8Clr => Sys2Proof.Machine.execS8Clr s
  | .s8Add b => Sys2Proof.Machine.execS8Add b s
  | .c32Init => Sys2Proof.Machine.execC32Init s
  | .c32Add b => Sys2Proof.Machine.execC32Add b s
  | .txbClr => Sys2Proof.Machine.execTxbClr s
  | .rxbRel => Sys2Proof.Machine.execRxbRel s
  | .canbClr => Sys2Proof.Machine.execCanbClr s
  | .txFrame => Sys2Proof.Machine.execTxFrame s
  | .txRaw => Sys2Proof.Machine.execTxRaw s
  | .ucBuild => Sys2Proof.Machine.execUcBuild s
  | .ucCheck l => Sys2Proof.Machine.execUcCheck l s
  | .palTx => Sys2Proof.Machine.execPalTx s
  | .palSeg => Sys2Proof.Machine.execPalSeg s
  | .palAbort => Sys2Proof.Machine.execPalAbort s
  | .busRead a => Sys2Proof.Machine.execBusRead a s
  | .busWrite a v => Sys2Proof.Machine.execBusWrite a v s

end Sys2Proof.Machine
end

