-- ==== Sys2Proof/Machine/Step.lean ====
section
/-! DEFINITION. One step of the machine: the agent that the next input names takes its step (00_scope.md R6, R10,
20_memory.md R84), and how an opcode-table word is placed as the next host access. -/

namespace Sys2Proof.Machine

/-- One atomic step of one agent. -/
def step (s : State) : Host.Outcome State Fault Refusal :=
  match s.nextInput with
  | .host acc => exec (decode acc) s.popInput
  | .clk rxd => .next (clockStep rxd s)
  | .serializer => .next (serializerStep s.popInput)
  | .sampler => .next (samplerStep s.popInput)
  | .rstN => .next (hardReset s.popInput)

/-- The state in which the host's next access is the one the opcode table's bits stand for (log entry 10). -/
def State.withFetchWord (s : State) (nbits w : Nat) : State :=
  match accessOfTable nbits w with
  | some acc => { s with env := { s.env with inputs := .host acc :: s.env.inputs } }
  | none => s

end Sys2Proof.Machine
end

