-- ==== Sys2Proof/Safety.lean ====
section
/-! DEFINITION. The conditions on a state that every step keeps, and the other terms the statements use: the reset
table, a command word read by its fields, the levels of a character on the line. Each names the rules of spec/ it
comes from. -/

namespace Sys2Proof.Machine

/-- Every byte store is in canonical form. -/
def memCanonical (s : State) : Prop := ∀ b, Memory.wf (s.store b)

/-- TX_BUSY is 1 exactly while a transmission has bytes not yet fully sent, and TX_DONE is then 0
(10_state.md R24, 44_serial.md R305). -/
def transmitSound (s : State) : Prop :=
  (s.tx.txBusy = true ↔ (s.tx.txq ≠ [] ∨ s.tx.utxst ≠ .tidle)) ∧ (s.tx.txBusy = true → s.tx.txDone = false)

/-- The serializer's counters in the ranges of 10_state.md R46: below 16 in a bit, below 8 in TDATA. -/
def serializerCounts (t : Transmitter) : Prop :=
  (t.utxst ≠ .tidle → t.utxCnt < 16) ∧ (t.utxst = .tdata → t.utxNbit < 8)

/-- The sampler's counters in the ranges of 10_state.md R45: below 8 in START, below 16 in DATA and STOP, and the
bit counter below 8 in DATA. -/
def samplerCounts (u : Receiver) : Prop :=
  (u.urxst = .start → u.urxCnt < 8) ∧ (u.urxst = .data → u.urxCnt < 16 ∧ u.urxNbit < 8)
    ∧ (u.urxst = .stop → u.urxCnt < 16)

/-- With the receiver off the sampler is in IDLE and the deframer in HUNT; in passthrough mode the deframer is in
HUNT (10_state.md R23, 42_frame_rx.md R214, 44_serial.md R316, R320). -/
def receiveModes (s : State) : Prop :=
  (s.rxEn = false → s.urx.urxst = .idle ∧ s.df.rxst = .hunt) ∧ (s.passthru = true → s.df.rxst = .hunt)

/-- The deframer's counters are inside the field being received, a length taken past LEN is at most MAX_RX_LEN, and
every payload byte taken so far has been stored (42_frame_rx.md R201 to R208, 70_reset_and_hazards.md R452). -/
def deframerInField (s : State) : Prop :=
  match s.df.rxst with
  | .hunt => True
  | .len => s.df.rxI < lenBytes s.regs.frameCfg ∧ s.df.rxJ = 0
  | .instr => s.df.rxI < s.regs.frameCfg.iw.val ∧ s.df.rxLen.toNat ≤ Config.maxRxLen ∧ s.df.rxJ = 0
  | .pay =>
    s.df.rxI = 0 ∧ s.df.rxJ < s.df.rxLen.toNat ∧ s.df.rxLen.toNat ≤ Config.maxRxLen
      ∧ ∀ j, j < s.df.rxJ → (Memory.get s.mem.asm j).isSome
  | .chk =>
    (s.regs.frameCfg.chk = .crc32 → s.df.rxI < 4) ∧ s.df.rxLen.toNat ≤ Config.maxRxLen
      ∧ ∀ j, j < s.df.rxLen.toNat → (Memory.get s.mem.asm j).isSome
  | .endm =>
    s.df.rxLen.toNat ≤ Config.maxRxLen ∧ ∀ j, j < s.df.rxLen.toNat → (Memory.get s.mem.asm j).isSome

/-- The length registers of the transmit, receive and uCAN buffers are in range and every byte below them has been
written (10_state.md R34 to R36, 70_reset_and_hazards.md R452), and so is the raw FIFO's count (R39). -/
def lengthsWritten (s : State) : Prop :=
  s.tx.txLen ≤ Config.bufSize ∧ (∀ j, j < s.tx.txLen → (Memory.get s.mem.txbuf j).isSome)
    ∧ s.pal.canLen ≤ Config.canSize ∧ (∀ j, j < s.pal.canLen → (Memory.get s.mem.canbuf j).isSome)
    ∧ s.hold.rxLen ≤ Config.maxRxLen ∧ (∀ j, j < s.hold.rxLen → (Memory.get s.mem.rxbuf j).isSome)
    ∧ s.urx.rawFifo.length ≤ Config.rawDepth

/-- The segment buffered under a key: its length is stored and at most 7, and so are its bytes (10_state.md R42). -/
def segStored (m : Buffers) (k : Nat) : Prop :=
  ∃ n : Byte, Memory.get m.segl k = some n ∧ n.toNat ≤ Config.segData
    ∧ ∀ j, j < n.toNat → (Memory.get m.segd (8 * k + j)).isSome

/-- The reassembler: every key in KEYS has its segment stored, PAL_N is at most 128 and is 0 unless its own first
segment's key is in KEYS, PAL_LEN is at most 892, and CANLEN at most 8 (10_state.md R38, R42, 43_ucan_pallet.md R252,
R255). -/
def reassemblerSound (s : State) : Prop :=
  (∀ k, s.pal.keys.getLsbD k = true → segStored s.mem k)
    ∧ (s.pal.palN ≠ 0 → s.pal.keys.getLsbD (s.pal.palN - 1) = true)
    ∧ s.pal.palLen ≤ Config.palMaxData ∧ s.pal.canLen ≤ Config.canSize

/-- The divider has not passed its end (44_serial.md R290). -/
def dividerInRange (s : State) : Prop := s.tick.dv.toNat ≤ s.tick.div.toNat

/-- Every register, and every internal element with a stated value, at the value of the table of
70_reset_and_hazards.md R451, and the pins at those of R453. -/
def registersReset (s : State) : Prop :=
  s.regs = { ctrl := 0, err := 0, irqEn := 0,
             frameCfg := { sm := 0x02, em := 0x03, chk := .sum8, lw := false, iw := 2 },
             c32init := Config.crc32InitReset, s8 := 0, c32 := Config.crc32InitReset, txInstr := 0, ucOk := false }
    ∧ (s.tx.txLen = 0 ∧ s.tx.txBusy = false ∧ s.tx.txDone = false ∧ s.tx.txq = [] ∧ s.tx.utxst = .tidle
      ∧ s.tx.txb = 0 ∧ s.tx.txbShadow = 0)
    ∧ s.hold = { rxFull := false, rxLen := 0, rxInstr := 0, cntBadframe := 0, cntOverrun := 0 }
    ∧ (s.df.rxst = .hunt ∧ s.urx.urxst = .idle ∧ s.urx.rawFifo = [] ∧ s.urx.rxb = 0 ∧ s.urx.rxbShadow = 0)
    ∧ (s.tick.div = Config.bauddivReset ∧ s.tick.dv = 0)
    ∧ s.pal = { canLen := 0, segN := 0, segLastLen := 0, palN := 0, palLen := 0, keys := 0, palDone := false,
                palOk := false }
    ∧ (s.txd = true ∧ s.de = false ∧ s.irq = false)

/-- The command a word names, read by its fields OP = w[31:24] and the 24 bits below (30_encoding.md R102 to R106):
none where OP is reserved, RSV is not 0 or an unused ARG bit is 1. -/
def namedCommand (w : Word) : Option Instr :=
  let op := w.toNat / 2 ^ 24
  let low := w.toNat % 2 ^ 24
  if op = 0x11 then (if low < 256 then some (.s8Add (BitVec.ofNat 8 low)) else none)
  else if op = 0x19 then (if low < 256 then some (.c32Add (BitVec.ofNat 8 low)) else none)
  else if op = 0x41 then (if low < 8 then some (.ucCheck (BitVec.ofNat 3 low)) else none)
  else if low ≠ 0 then none
  else if op = 0x00 then some .nop
  else if op = 0x01 then some .srst
  else if op = 0x10 then some .s8Clr
  else if op = 0x18 then some .c32Init
  else if op = 0x20 then some .txbClr
  else if op = 0x21 then some .rxbRel
  else if op = 0x22 then some .canbClr
  else if op = 0x30 then some .txFrame
  else if op = 0x31 then some .txRaw
  else if op = 0x40 then some .ucBuild
  else if op = 0x48 then some .palTx
  else if op = 0x49 then some .palSeg
  else if op = 0x4A then some .palAbort
  else none

/-- ERR gains bits and nothing else changes: what a refusal is (60_exceptions.md R402). -/
def errSet (m : BitVec 15) (s : State) : State := { s with regs := { s.regs with err := s.regs.err ||| m } }

/-- Every word with opcode `op` whose low 24 bits are not an argument that its command takes sets BADOP and does
nothing else (30_encoding.md R104). -/
def badopUnless (op : Nat) (ok : Nat → Prop) (s : State) : Prop :=
  ∀ w : Word, w.toNat / 2 ^ 24 = op → ¬ ok (w.toNat % 2 ^ 24) →
    exec (.busWrite 0x0010 w) s = .next (errSet 0x10 s)

/-- The bits of a byte, bit 0 first (40_checksum.md R150). -/
def bitsOf (b : Byte) : List Bool := (List.range 8).map b.getLsbD

/-- One step of the bit-serial CRC (40_checksum.md R150). -/
def crcBit (c : Word) (x : Bool) : Word :=
  if (c.getLsbD 0 ^^ x) then (c >>> 1) ^^^ 0xEDB88320 else c >>> 1

/-- The level of bit period `k` of a character: start bit 0, data bits least significant first, stop bit 1
(30_encoding.md R123). -/
def charLevel (b : Byte) (k : Nat) : Bool :=
  if k = 0 then false else if k ≤ 8 then b.getLsbD (k - 1) else true

/-- The levels of a character at the 153 ticks from the fall of the start bit to the middle of the stop bit
(44_serial.md R310 to R313). -/
def charTicks (b : Byte) : List Bool := (List.range 153).map (fun n => charLevel b (n / 16))

/-- The segment of a PAL_TX output that the host sends as segment i (43_ucan_pallet.md R245). -/
def segmentOf (buf : List Byte) (i : Nat) : List Byte := segHeader (segCount buf.length) i :: segChunk buf i

/-- CANBUF holding a segment, and CANLEN its length. -/
def withSegment (seg : List Byte) (s : State) : State :=
  { s.putBytes .canbuf 0 seg with pal := { s.pal with canLen := seg.length } }

/-- The state after a segment in CANBUF is given to PAL_SEG. -/
def giveSegment (s : State) (seg : List Byte) : State :=
  match exec .palSeg (withSegment seg s) with
  | .next t => t
  | .fault _ => s
  | .refused _ => s

end Sys2Proof.Machine
end

