-- ==== Sys2Proof/WellFormed.lean ====
section
/-! DEFINITION. Which instructions are well formed: a bus access is aligned (30_encoding.md R100), and a write of a
command word to CMD goes by the command's own constructor. The machine gives an ill-formed access its meaning all
the same (20_memory.md R74); well-formedness is what the encoding round trip needs. -/

namespace Sys2Proof

/-- `a[1:0] = 0` (20_memory.md R71). -/
def alignedAddr (a : Addr) : Bool := a.extractLsb' 0 2 == 0

/-- Does the word stand for a command (30_encoding.md R104)? -/
def isCommandWord (w : Word) : Bool :=
  match decodeCmd w with
  | .ok _ => true
  | .error _ => false

/-- Every command is well formed: its constructor's arguments are exactly its used ARG bits (30_encoding.md R103). -/
def Instr.wellFormed : Instr → Bool
  | .nop => true
  | .srst => true
  | .s8Clr => true
  | .s8Add _ => true
  | .c32Init => true
  | .c32Add _ => true
  | .txbClr => true
  | .rxbRel => true
  | .canbClr => true
  | .txFrame => true
  | .txRaw => true
  | .ucBuild => true
  | .ucCheck _ => true
  | .palTx => true
  | .palSeg => true
  | .palAbort => true
  | .busRead a => alignedAddr a
  | .busWrite a v => alignedAddr a && !(a == cmdAddr && isCommandWord v)

end Sys2Proof
end

