-- ==== Sys2Proof/Certificates/Slice0/Obligations.lean ====
section
/-! DEFINITION. The statements for the provers, each from rules of spec/ that its docstring names. -/

open Sys2Proof Sys2Proof.Machine

/-! ## Encoding and stepping -/

/-- 30_encoding.md R100 to R105: the host access of every well-formed instruction decodes to that instruction. -/
def Obligations.EncodedInstructionDecodesBack : Prop :=
  ∀ i : Instr, i.wellFormed = true → decode (encode i) = i

/-- 30_encoding.md R102, R103, R105: words written out from the opcode map decode to the commands they stand for.
That 16 table bits are the address of a read, though BusWrite has the same bits, is the model's choice (log entry 10). -/
def Obligations.OpcodeMapWordsDecode : Prop :=
  decodeTableWord 32 0x00000000 = some .nop ∧ decodeTableWord 32 0x01000000 = some .srst
    ∧ decodeTableWord 32 0x110000A5 = some (.s8Add 0xA5) ∧ decodeTableWord 32 0x1900003C = some (.c32Add 0x3C)
    ∧ decodeTableWord 32 0x30000000 = some .txFrame ∧ decodeTableWord 32 0x41000005 = some (.ucCheck 5)
    ∧ decodeTableWord 32 0x4A000000 = some .palAbort ∧ decodeTableWord 32 0x41000008 = none
    ∧ decodeTableWord 16 0x2004 = some (.busRead 0x2004)
    ∧ decode (.write 0x0014 0x00110302) = .busWrite 0x0014 0x00110302

/-- 30_encoding.md R104, R106: a word written to CMD executes the command its fields name; a word that names none
(a reserved OP, RSV not 0, an unused ARG bit 1) changes nothing but ERR.BADOP. -/
def Obligations.CommandWordRunsOrIsRefused : Prop :=
  ∀ (w : Word) (s : State),
    (∀ i, namedCommand w = some i → decode (.write 0x0010 w) = i ∧ exec (.busWrite 0x0010 w) s = exec i s)
      ∧ (namedCommand w = none → decode (.write 0x0010 w) = .busWrite 0x0010 w
          ∧ exec (.busWrite 0x0010 w) s = .next (errSet 0x10 s))

/-- 45_control.md R340, 00_scope.md R10: a step whose next input is a host access is `exec` of the access's
instruction, on the state with that input taken: the first known input, or one the environment supplies (log entry 1). -/
def Obligations.StepRunsDecodedAccess : Prop :=
  (∀ (s : State) (acc : BusAccess) (i : Instr), decode acc = i → s.nextInput = .host acc →
    step s = exec i s.popInput)
    ∧ (∀ (s : State) (x : Input) (rest : List Input), s.env.inputs = x :: rest →
        s.nextInput = x ∧ s.popInput = { s with env := { s.env with inputs := rest } })
    ∧ ∀ s : State, s.env.inputs = [] →
        s.nextInput = Config.input s.env.draws
          ∧ s.popInput = { s with env := { s.env with draws := s.env.draws + 1 } }

/-- 20_memory.md R74, 60_exceptions.md R400: no access and no error stops the block; every step has a next state. -/
def Obligations.EveryStepHasNextState : Prop :=
  (∀ (i : Instr) (s : State), ∃ t, exec i s = .next t) ∧ ∀ s : State, ∃ t, step s = .next t

/-! ## Checksums -/

/-- 40_checksum.md R144: a buffer followed by its CRC32, least significant byte first, has residue 0, whatever the
initial value; with a final inversion the residue is 0x2144DF1C; with the CRC most significant byte first it is not
always 0. -/
def Obligations.Crc32ZeroResidue : Prop :=
  (∀ (init : Word) (d : List Byte), crc32 init (d ++ le32 (crc32 init d)) = 0)
    ∧ (∀ (init : Word) (d : List Byte),
        crc32 init (d ++ le32 (crc32 init d ^^^ 0xFFFFFFFF)) ^^^ 0xFFFFFFFF = 0x2144DF1C)
    ∧ ∃ (init : Word) (d : List Byte), crc32 init (d ++ (le32 (crc32 init d)).reverse) ≠ 0

/-- 40_checksum.md R150: CRC32 is the bit-serial CRC over the bits of the bytes, bit 0 first. -/
def Obligations.Crc32IsBitSerial : Prop :=
  ∀ (init : Word) (d : List Byte), crc32 init d = (d.flatMap bitsOf).foldl crcBit init

/-- 40_checksum.md R142, R143, R145, R146: the four checksum commands, each changing its one register and nothing
else, and each word of theirs with a bit set that is no argument, refused with BADOP. -/
def Obligations.ChecksumCommandsUpdateTheirRegister : Prop :=
  ∀ (s : State) (b : Byte),
    exec .s8Clr s = .next { s with regs := { s.regs with s8 := 0 } }
      ∧ exec (.s8Add b) s =
          .next { s with regs := { s.regs with s8 := BitVec.ofNat 8 ((s.regs.s8.toNat + b.toNat) % 256) } }
      ∧ exec .c32Init s = .next { s with regs := { s.regs with c32 := s.regs.c32init } }
      ∧ exec (.c32Add b) s = .next { s with regs := { s.regs with c32 := (bitsOf b).foldl crcBit s.regs.c32 } }
      ∧ badopUnless 0x10 (· = 0) s ∧ badopUnless 0x11 (· < 256) s ∧ badopUnless 0x18 (· = 0) s
      ∧ badopUnless 0x19 (· < 256) s

/-- 40_checksum.md R147: a step changes S8 or C32 only when it is one of the four checksum commands, SRST, a write to
S8 or C32, or `rst_n`; and those four commands change nothing of the transmit side, the deframer, the pallet unit or
the buffers. -/
def Obligations.ChecksumUnitsAreTheHosts : Prop :=
  (∀ s t : State, step s = .next t →
    (t.regs.s8 = s.regs.s8 ∧ t.regs.c32 = s.regs.c32) ∨ s.nextInput = .rstN
      ∨ (∃ acc, s.nextInput = .host acc
          ∧ (decode acc = .srst ∨ decode acc = .s8Clr ∨ (∃ b, decode acc = .s8Add b) ∨ decode acc = .c32Init
            ∨ (∃ b, decode acc = .c32Add b) ∨ (∃ v, acc = .write 0x0020 v) ∨ ∃ v, acc = .write 0x0024 v)))
    ∧ ∀ (i : Instr) (s t : State), exec i s = .next t →
        (i = .s8Clr ∨ (∃ b, i = .s8Add b) ∨ i = .c32Init ∨ ∃ b, i = .c32Add b) →
        t.tx = s.tx ∧ t.df = s.df ∧ t.pal = s.pal ∧ t.mem = s.mem

/-- 43_ucan_pallet.md R258: one changed byte in a buffer whose residue is 0 makes the residue other than 0, so a
reassembly with one changed data or CRC byte fails its check. -/
def Obligations.SingleByteErrorIsDetected : Prop :=
  ∀ (init : Word) (buf : List Byte) (i : Nat) (b : Byte), crc32 init buf = 0 → i < buf.length → buf[i]? ≠ some b →
    crc32 init (buf.set i b) ≠ 0

/-! ## Transmission -/

/-- 30_encoding.md R110 to R114, 41_frame_tx.md R170: the fields of a frame, in order, and its length. -/
def Obligations.FrameLayout : Prop :=
  ∀ (cfg : FrameCfg) (init t : Word) (p : List Byte), p.length ≤ (if cfg.lw then 1024 else 255) →
    let lb := if cfg.lw then 2 else 1
    let cb := if cfg.chk = .crc32 then 4 else 1
    let f := frameOf cfg init t p
    let cov := (f.drop 1).take (lb + cfg.iw.val + p.length)
    f.length = 1 + lb + cfg.iw.val + p.length + cb + 1 ∧ 4 ≤ f.length ∧ f.length ≤ 1036
      ∧ f.head? = some cfg.sm ∧ f.getLast? = some cfg.em
      ∧ (cfg.lw = false → f[1]? = some (BitVec.ofNat 8 p.length))
      ∧ (cfg.lw = true → f[1]? = some (BitVec.ofNat 8 (p.length / 256)) ∧ f[2]? = some (BitVec.ofNat 8 p.length))
      ∧ (∀ k, k < cfg.iw.val → f[1 + lb + k]? = some (BitVec.ofNat 8 (t.toNat / 256 ^ (cfg.iw.val - 1 - k))))
      ∧ (f.drop (1 + lb + cfg.iw.val)).take p.length = p
      ∧ (f.drop (1 + lb + cfg.iw.val + p.length)).take cb =
          (if cfg.chk = .crc32 then le32 (crc32 init cov) else [sum8 0 cov])

/-- 41_frame_tx.md R172: TX_FRAME queues the frame of TXBUF's bytes, clears TX_DONE, sets TX_BUSY and changes nothing
else, or is refused by the first of its checks BADOP, BUSY, MODE and ARG that fails. -/
def Obligations.TxFrameQueuesFrame : Prop :=
  ∀ s : State, badopUnless 0x30 (· = 0) s ∧ exec .txFrame s = .next
    (if s.tx.txBusy = true then errSet 0x2 s
    else if s.txEn = false ∨ s.passthru = true then errSet 0x4 s
    else if s.regs.frameCfg.lw = false ∧ 255 < s.tx.txLen then errSet 0x8 s
    else { s with tx := { s.tx with
      txq := frameOf s.regs.frameCfg s.regs.c32init s.regs.txInstr (s.bytes .txbuf 0 s.tx.txLen)
      txDone := false
      txBusy := true } })

/-- 41_frame_tx.md R178: TX_RAW queues TXBUF's bytes unframed, or completes at once when there are none, and changes
nothing else, or is refused by the first of its checks BADOP, BUSY and MODE that fails. -/
def Obligations.TxRawQueuesBytes : Prop :=
  ∀ s : State, badopUnless 0x31 (· = 0) s ∧ exec .txRaw s = .next
    (if s.tx.txBusy = true then errSet 0x2 s
    else if s.txEn = false ∨ s.passthru = false then errSet 0x4 s
    else if s.tx.txLen = 0 then { s with tx := { s.tx with txDone := true } }
    else { s with tx := { s.tx with txq := s.bytes .txbuf 0 s.tx.txLen, txDone := false, txBusy := true } })

/-- 60_exceptions.md R402, R403: each refusal of R401 sets the one bit of its first failing check and changes nothing
else. -/
def Obligations.RefusalSetsFirstFailingBit : Prop :=
  ∀ (s : State) (v : Word) (l : BitVec 3),
    let err (m : BitVec 15) : Result := .next (errSet m s)
    (∀ w, namedCommand w = none → exec (.busWrite 0x0010 w) s = err 0x10)
      ∧ (s.tx.txBusy = true →
      exec .txFrame s = err 0x2 ∧ exec .txRaw s = err 0x2 ∧ exec .txbClr s = err 0x2 ∧ exec .ucBuild s = err 0x2
        ∧ exec (.busWrite 0x0014 v) s = err 0x2 ∧ exec (.busWrite 0x001C v) s = err 0x2
        ∧ exec (.busWrite 0x0028 v) s = err 0x2 ∧ exec (.busWrite 0x0030 v) s = err 0x2)
      ∧ (s.tx.txBusy = false → (s.txEn = false ∨ s.passthru = true) → exec .txFrame s = err 0x4)
      ∧ (s.tx.txBusy = false → (s.txEn = false ∨ s.passthru = false) → exec .txRaw s = err 0x4)
      ∧ (s.tx.txBusy = false → s.txEn = true → s.passthru = false → s.regs.frameCfg.lw = false → 255 < s.tx.txLen →
          exec .txFrame s = err 0x8)
      ∧ (s.tx.txBusy = false → 7 < s.tx.txLen → exec .ucBuild s = err 0x8)
      ∧ (s.pal.canLen ≤ l.toNat → exec (.ucCheck l) s = err 0x8)
      ∧ (892 < s.tx.txLen → exec .palTx s = err 0x8)
      ∧ (s.pal.canLen = 0 → exec .palSeg s = err 0x8)
      ∧ (s.tx.txBusy = false → s.tx.txLen = 1024 → exec (.busWrite 0x0030 v) s = err 0x1)
      ∧ (s.pal.canLen = 8 → exec (.busWrite 0x0040 v) s = err 0x800)

/-- 44_serial.md R302, R305: a tick in TIDLE does nothing with TXQ empty and loads the first byte of TXQ with bytes in
it; the last tick of a character with TXQ empty enters TIDLE and, if TX_BUSY is 1, makes it 0 and TX_DONE 1; and from
TIDLE with TXQ holding k bytes, the transmission is in progress for 160k ticks after the first tick, and then TXQ is
empty, TX_BUSY 0, TX_DONE 1, and TXB has counted the k bytes. -/
def Obligations.TransmissionEndsAfter160TicksPerByte : Prop :=
  (∀ t : Transmitter, t.utxst = .tidle → t.txq = [] → serializerTick t = t)
  ∧ (∀ (t : Transmitter) (b : Byte) (rest : List Byte), t.utxst = .tidle → t.txq = b :: rest →
    serializerTick t = { t with utxB := b, txq := rest, utxCnt := 0, utxst := .tstart })
  ∧ (∀ t : Transmitter, t.utxst = .tstop → t.utxCnt = 15 → t.txq = [] →
    let u := serializerTick t
    u.utxst = .tidle ∧ u.txq = [] ∧ u.txBusy = false ∧ u.txDone = (t.txBusy || t.txDone))
  ∧ ∀ t : Transmitter, t.utxst = .tidle → t.txBusy = true → t.txq ≠ [] →
    (∀ m, m ≤ 160 * t.txq.length → (serializerTick^[m] t).txBusy = true)
      ∧ (let u := serializerTick^[160 * t.txq.length + 1] t
         u.txBusy = false ∧ u.txDone = true ∧ u.txq = [] ∧ u.utxst = .tidle ∧ u.txLen = t.txLen
          ∧ u.txbShadow = t.txbShadow ∧ u.txb.toNat = min (t.txb.toNat + t.txq.length) (2 ^ 64 - 1))

/-- 41_frame_tx.md R176, 44_serial.md R301 to R304, 30_encoding.md R123: from the first tick after the acceptance, the
line carries the characters of TXQ's bytes in order, 16 ticks a bit, back to back. -/
def Obligations.LineCarriesQueuedBytes : Prop :=
  ∀ s : State, s.tx.utxst = .tidle → ∀ n, n < 160 * s.tx.txq.length →
    ({ s with tx := serializerTick^[n + 1] s.tx } : State).txd =
      charLevel (s.tx.txq.getD (n / 160) 0) (n % 160 / 16)

/-- 70_reset_and_hazards.md R470, 41_frame_tx.md R179: while a transmission is in progress no step changes TXBUF,
TXLEN, TXINSTR, FRAMECFG or C32INIT, and TXQ only loses bytes from its front. -/
def Obligations.TransmitInputsFrozenWhileBusy : Prop :=
  ∀ s t : State, step s = .next t → s.tx.txBusy = true → t.tx.txBusy = true →
    t.tx.txLen = s.tx.txLen ∧ t.regs.txInstr = s.regs.txInstr ∧ t.regs.frameCfg = s.regs.frameCfg
      ∧ t.regs.c32init = s.regs.c32init ∧ (∀ j, t.byte .txbuf j = s.byte .txbuf j) ∧ t.tx.txq <:+ s.tx.txq

/-- 44_serial.md R290: from `dv` = 0 with no tick owed, DIV clock edges produce no tick and the next one produces one,
owed to both engines, the sampler with the level of `rxd` at that edge (that a tick is owed and taken in a later step
is the model's choice, log entries 2 and 3). -/
def Obligations.OneTickEveryDivPlusOneEdges : Prop :=
  ∀ (s : State) (r : Bool), s.tick.dv = 0 → s.tick.txOwed = false → s.tick.rxOwed = none →
    (∀ n, n ≤ s.tick.div.toNat →
      (clockEdge r)^[n] s = { s with tick := { s.tick with dv := BitVec.ofNat 16 n } })
      ∧ (clockEdge r)^[s.tick.div.toNat + 1] s =
          { s with tick := { s.tick with dv := 0, txOwed := true, rxOwed := some r } }

/-! ## Reception -/

/-- 44_serial.md R310, R311, R315: the sampler's ticks with the receiver off, in IDLE, in START and in BREAK: a 0 starts
a character, a 1 in the middle of the start bit is a glitch, a line held at 0 stays in BREAK. -/
def Obligations.SamplerIdleStartAndBreak : Prop :=
  ∀ (s : State) (r : Bool),
    (s.rxEn = false → samplerTick r s = { s with urx := { s.urx with urxst := .idle } })
      ∧ (s.rxEn = true → s.urx.urxst = .idle → samplerTick r s =
          if r = false then { s with urx := { s.urx with urxst := .start, urxCnt := 0 } } else s)
      ∧ (s.rxEn = true → s.urx.urxst = .start → samplerTick r s =
          if s.urx.urxCnt + 1 ≠ 8 then { s with urx := { s.urx with urxCnt := s.urx.urxCnt + 1 } }
          else if r = true then { s with urx := { s.urx with urxCnt := 8, urxst := .idle } }
          else { s with urx := { s.urx with urxst := .data, urxCnt := 0, urxNbit := 0, urxSh := 0 } })
      ∧ (s.rxEn = true → s.urx.urxst = .brk → samplerTick r s =
          if r = true then { s with urx := { s.urx with urxst := .idle } } else s)

/-- 44_serial.md R310 to R313, R318: from IDLE, a character with a good stop bit is delivered as its byte in the middle
of the stop bit, and the sampler is in IDLE again. -/
def Obligations.WellFormedCharacterIsReceived : Prop :=
  ∀ (s : State) (b : Byte), s.rxEn = true → s.urx.urxst = .idle →
    (charTicks b).foldl (fun s r => samplerTick r s) s =
      setUrxst .idle (receiveByte b
        { s with urx := { s.urx with urxst := .stop, urxCnt := 16, urxNbit := 8, urxSh := b } })

/-- 42_frame_rx.md R218: a whole frame made by the encoder, fed to the deframer in HUNT with the hold buffer free, is
accepted with the encoder's payload, its length and the low IW bytes of its tag, with no error. -/
def Obligations.EncodedFrameIsAccepted : Prop :=
  ∀ (s : State) (tag : Word) (p : List Byte), s.df.rxst = .hunt → s.hold.rxFull = false →
    p.length ≤ (if s.regs.frameCfg.lw then 1024 else 255) →
    let t := (frameOf s.regs.frameCfg s.regs.c32init tag p).foldl (fun s b => deframe b s) s
    t.df.rxst = .hunt ∧ t.hold.rxFull = true ∧ t.hold.rxLen = p.length
      ∧ t.hold.rxInstr.toNat = tag.toNat % 256 ^ s.regs.frameCfg.iw.val
      ∧ t.bytes .rxbuf 0 p.length = p ∧ t.regs = s.regs
      ∧ t.hold.cntBadframe = s.hold.cntBadframe ∧ t.hold.cntOverrun = s.hold.cntOverrun

/-- 42_frame_rx.md R209, R210, R212: a byte after the check field that is not EM, or a failed check, drops the frame
with RXFRM and one more bad frame, and the byte is examined again in HUNT. -/
def Obligations.BadFrameIsDroppedAndByteRescanned : Prop :=
  ∀ (s : State) (b : Byte), s.df.rxst = .endm →
    (b ≠ s.regs.frameCfg.em ∨ (s.regs.frameCfg.chk = .sum8 ∧ s.df.rxS8 ≠ s.df.rxChk)
      ∨ (s.regs.frameCfg.chk = .crc32 ∧ s.df.rxC32 ≠ 0)) →
    deframe b s = deframe b
      { s with
        regs := { s.regs with err := s.regs.err ||| 0x40 }
        hold := { s.hold with
          cntBadframe := BitVec.ofNat 16 (min (s.hold.cntBadframe.toNat + 1) (2 ^ 16 - 1)) }
        df := { s.df with rxst := .hunt } }

/-- 42_frame_rx.md R211: a good frame with its EM is published whole in RXBUF, RXLEN and RXINSTR when RX_FULL = 0, and
is dropped with RXOVR and one more overrun when RX_FULL = 1. -/
def Obligations.GoodFrameIsPublishedOrOverruns : Prop :=
  ∀ s : State, s.df.rxst = .endm →
    ((s.regs.frameCfg.chk = .sum8 ∧ s.df.rxS8 = s.df.rxChk) ∨ (s.regs.frameCfg.chk = .crc32 ∧ s.df.rxC32 = 0)) →
    let t := deframe s.regs.frameCfg.em s
    t.df = { s.df with rxst := .hunt } ∧ t.tx = s.tx ∧ t.urx = s.urx ∧ t.tick = s.tick ∧ t.pal = s.pal ∧ t.env = s.env
      ∧ (s.hold.rxFull = false →
          t.regs = s.regs ∧ t.hold = { s.hold with rxFull := true, rxLen := s.df.rxLen.toNat, rxInstr := s.df.rxInstr }
            ∧ (∀ j, j < s.df.rxLen.toNat → t.byte .rxbuf j = s.byte .asm j)
            ∧ ∀ b j, (b ≠ .rxbuf ∨ s.df.rxLen.toNat ≤ j) → t.byte b j = s.byte b j)
      ∧ (s.hold.rxFull = true →
          t.regs = { s.regs with err := s.regs.err ||| 0x80 }
            ∧ t.hold = { s.hold with
                cntOverrun := BitVec.ofNat 16 (min (s.hold.cntOverrun.toNat + 1) (2 ^ 16 - 1)) }
            ∧ ∀ b j, t.byte b j = s.byte b j)

/-- 42_frame_rx.md R204: a two-byte length field above 1024 drops the frame with RXLONG at its last byte, which is
examined again in HUNT. -/
def Obligations.OverlongLengthIsDropped : Prop :=
  ∀ (s : State) (b : Byte), s.df.rxst = .len → s.regs.frameCfg.lw = true → s.df.rxI = 1 →
    1024 < s.df.rxLen.toNat % 256 * 256 + b.toNat →
    let t := deframe b s
    t.regs = { s.regs with err := s.regs.err ||| 0x100 }
      ∧ t.hold = { s.hold with cntBadframe := BitVec.ofNat 16 (min (s.hold.cntBadframe.toNat + 1) (2 ^ 16 - 1)) }
      ∧ t.df.rxst = (if b = s.regs.frameCfg.sm then .len else .hunt)
      ∧ t.tx = s.tx ∧ t.urx = s.urx ∧ ∀ c j, t.byte c j = s.byte c j

/-- 44_serial.md R314, 42_frame_rx.md R213: a stop bit of 0 sets UARTFE, delivers nothing and puts the sampler in
BREAK; outside passthrough, with a frame in progress, that frame is abandoned with RXFRM and counted. -/
def Obligations.FramingErrorAbandonsFrame : Prop :=
  ∀ s : State, s.rxEn = true → s.urx.urxst = .stop → s.urx.urxCnt = 15 →
    samplerTick false s =
      (if s.passthru = false ∧ s.df.rxst ≠ .hunt then
        { s with
          regs := { s.regs with err := s.regs.err ||| 0x240 }
          hold := { s.hold with cntBadframe := BitVec.ofNat 16 (min (s.hold.cntBadframe.toNat + 1) (2 ^ 16 - 1)) }
          df := { s.df with rxst := .hunt }
          urx := { s.urx with urxst := .brk, urxCnt := 16 } }
      else
        { s with
          regs := { s.regs with err := s.regs.err ||| 0x200 }
          urx := { s.urx with urxst := .brk, urxCnt := 16 } })

/-- 44_serial.md R313, R317, R321, 42_frame_rx.md R200: the sixteenth tick of STOP with level 1 receives the character
and goes to IDLE; a received byte is counted (saturating) in either mode, and goes to DEFRAME outside passthrough mode;
in passthrough mode it is appended to the raw FIFO, or dropped with RAWOVF when that holds 16, and the deframer is not
fed. -/
def Obligations.PassthroughByteGoesToRawFifo : Prop :=
  (∀ (s : State) (r : Bool), s.rxEn = true → s.urx.urxst = .stop → s.urx.urxCnt ≠ 15 →
    samplerTick r s = { s with urx := { s.urx with urxCnt := s.urx.urxCnt + 1 } })
  ∧ (∀ s : State, s.rxEn = true → s.urx.urxst = .stop → s.urx.urxCnt = 15 →
    let t := receiveByte s.urx.urxSh { s with urx := { s.urx with urxCnt := 16 } }
    samplerTick true s = { t with urx := { t.urx with urxst := .idle } })
  ∧ ∀ (s : State) (b : Byte),
    let counted : State :=
      { s with urx := { s.urx with rxb := BitVec.ofNat 64 (min (s.urx.rxb.toNat + 1) (2 ^ 64 - 1)) } }
    (s.passthru = false → receiveByte b s = deframe b counted)
      ∧ (s.passthru = true → s.urx.rawFifo.length < 16 →
          receiveByte b s = { counted with urx := { counted.urx with rawFifo := s.urx.rawFifo ++ [b] } })
      ∧ (s.passthru = true → s.urx.rawFifo.length = 16 → receiveByte b s = errSet 0x400 counted)

/-- 42_frame_rx.md R216: while RX_FULL stays 1 no step changes RXBUF, RXLEN or RXINSTR. -/
def Obligations.HeldFrameIsStable : Prop :=
  ∀ s t : State, step s = .next t → s.hold.rxFull = true → t.hold.rxFull = true →
    t.hold.rxLen = s.hold.rxLen ∧ t.hold.rxInstr = s.hold.rxInstr ∧ ∀ j, t.byte .rxbuf j = s.byte .rxbuf j

/-! ## uCAN frames and pallets -/

/-- 43_ucan_pallet.md R240, 30_encoding.md R120: UC_BUILD leaves the content, appends its SUM8, zeroes the rest of the
8 bytes, sets TXLEN to 8, and changes nothing else, or is refused by the first of its checks that fails. -/
def Obligations.UcBuildAppendsChecksum : Prop :=
  ∀ s : State, badopUnless 0x40 (· = 0) s
    ∧ (s.tx.txBusy = true → exec .ucBuild s = .next (errSet 0x2 s))
    ∧ (s.tx.txBusy = false → 7 < s.tx.txLen → exec .ucBuild s = .next (errSet 0x8 s))
    ∧ (s.tx.txBusy = false → s.tx.txLen ≤ 7 →
      ∃ t, exec .ucBuild s = .next t ∧ t.tx = { s.tx with txLen := 8 }
        ∧ t.byte .txbuf s.tx.txLen = sum8 0 (s.bytes .txbuf 0 s.tx.txLen)
        ∧ (∀ j, s.tx.txLen < j → j ≤ 7 → t.byte .txbuf j = 0)
        ∧ (∀ b j, (b ≠ .txbuf ∨ j < s.tx.txLen ∨ 8 ≤ j) → t.byte b j = s.byte b j)
        ∧ t.regs = s.regs ∧ t.df = s.df ∧ t.hold = s.hold ∧ t.urx = s.urx ∧ t.tick = s.tick ∧ t.pal = s.pal
        ∧ t.env = s.env)

/-- 43_ucan_pallet.md R242: UC_CHECK L sets UC_OK to whether the SUM8 of the L content bytes is the byte after them,
and changes nothing else, or is refused with BADOP or ARG. -/
def Obligations.UcCheckComparesChecksum : Prop :=
  ∀ (s : State) (l : BitVec 3), badopUnless 0x41 (· < 8) s
    ∧ exec (.ucCheck l) s = .next
      (if s.pal.canLen ≤ l.toNat then errSet 0x8 s
      else { s with regs := { s.regs with
        ucOk := decide (((s.bytes .canbuf 0 l.toNat).map BitVec.toNat).sum % 256
          = (s.byte .canbuf l.toNat).toNat) } })

/-- 43_ucan_pallet.md R245, R246, R248: PAL_TX writes the segments of the pallet buffer to their slots, first to last,
with their headers, data and zeros, sets SEGINFO, and changes nothing else, or is refused with BADOP or ARG. -/
def Obligations.PalTxWritesSegments : Prop :=
  ∀ s : State, badopUnless 0x48 (· = 0) s
    ∧ (892 < s.tx.txLen → exec .palTx s = .next (errSet 0x8 s))
    ∧ (s.tx.txLen ≤ 892 →
      let d := s.bytes .txbuf 0 s.tx.txLen
      let buf := d ++ le32 (crc32 s.regs.c32init d)
      let n := (s.tx.txLen + 10) / 7
      ∃ t, exec .palTx s = .next t
        ∧ t.pal = { s.pal with segN := n, segLastLen := s.tx.txLen + 4 - 7 * (n - 1) }
        ∧ 1 ≤ n ∧ n ≤ 128 ∧ 1 ≤ t.pal.segLastLen ∧ t.pal.segLastLen ≤ 7
        ∧ (∀ i, i < n → t.byte .segbuf (8 * i) = BitVec.ofNat 8 ((if i = 0 then 128 else 0) + (n - 1 - i)))
        ∧ (∀ i j, i < n → j < 7 → t.byte .segbuf (8 * i + 1 + j) = buf.getD (7 * i + j) 0)
        ∧ (∀ b j, (b ≠ .segbuf ∨ 8 * n ≤ j) → t.byte b j = s.byte b j)
        ∧ t.regs = s.regs ∧ t.tx = s.tx ∧ t.df = s.df ∧ t.hold = s.hold ∧ t.urx = s.urx ∧ t.tick = s.tick
        ∧ t.env = s.env)

/-- 43_ucan_pallet.md R250, R251, R259: a segment that neither conflicts with PAL_N nor completes the reassembly is
buffered under its key, which replaces what was there, KEYS gains the key, a first-flagged one latches PAL_N, and
nothing else changes. -/
def Obligations.PalSegBuffersSegment : Prop :=
  ∀ (s : State) (k n : Nat), 1 ≤ s.pal.canLen → s.pal.canLen ≤ 8 →
    k = (s.byte .canbuf 0).toNat % 128 →
    n = (if 128 ≤ (s.byte .canbuf 0).toNat then k + 1 else s.pal.palN) →
    (128 ≤ (s.byte .canbuf 0).toNat → s.pal.palN = 0 ∨ s.pal.palN = k + 1) →
    ¬ (n ≠ 0 ∧ (s.pal.keys ||| ((1 : BitVec 128) <<< k)).toNat = 2 ^ n - 1) →
    ∃ t, exec .palSeg s = .next t
      ∧ t.pal = { s.pal with keys := s.pal.keys ||| ((1 : BitVec 128) <<< k), palN := n }
      ∧ t.segData k = s.bytes .canbuf 1 (s.pal.canLen - 1)
      ∧ (∀ j, j ≠ k → (s.byte .segl j).toNat ≤ 7 → t.segData j = s.segData j)
      ∧ (∀ b j, b ≠ .segd → b ≠ .segl → t.byte b j = s.byte b j)
      ∧ t.regs = s.regs ∧ t.tx = s.tx ∧ t.df = s.df ∧ t.hold = s.hold ∧ t.urx = s.urx ∧ t.tick = s.tick
      ∧ t.env = s.env

/-- 43_ucan_pallet.md R253 to R255: the segment that makes KEYS the keys 0 to PAL_N - 1 completes the reassembly: the
data in descending key order is published in PALBUF when it is at least 4 bytes with residue 0, and PALCRC is set,
with PALBUF unchanged, when not; either way the reassembler is empty and PAL_DONE is 1. -/
def Obligations.PalSegCompletesReassembly : Prop :=
  ∀ (s : State) (k n : Nat) (buf : List Byte), 1 ≤ s.pal.canLen → s.pal.canLen ≤ 8 →
    k = (s.byte .canbuf 0).toNat % 128 →
    n = (if 128 ≤ (s.byte .canbuf 0).toNat then k + 1 else s.pal.palN) →
    (128 ≤ (s.byte .canbuf 0).toNat → s.pal.palN = 0 ∨ s.pal.palN = k + 1) →
    n ≠ 0 → (s.pal.keys ||| ((1 : BitVec 128) <<< k)).toNat = 2 ^ n - 1 →
    (∀ j, j < n → j ≠ k → (s.byte .segl j).toNat ≤ 7) →
    buf = (List.range n).reverse.flatMap
      (fun j => if j = k then s.bytes .canbuf 1 (s.pal.canLen - 1) else s.segData j) →
    ∃ t, exec .palSeg s = .next t ∧ t.pal.palDone = true ∧ t.pal.keys = 0 ∧ t.pal.palN = 0
      ∧ t.pal.canLen = s.pal.canLen ∧ t.pal.segN = s.pal.segN ∧ t.pal.segLastLen = s.pal.segLastLen
      ∧ (if 4 ≤ buf.length ∧ crc32 s.regs.c32init buf = 0 then
          t.pal.palOk = true ∧ t.pal.palLen = buf.length - 4 ∧ t.regs = s.regs
            ∧ t.bytes .palbuf 0 (buf.length - 4) = buf.take (buf.length - 4)
            ∧ ∀ j, buf.length - 4 ≤ j → t.byte .palbuf j = s.byte .palbuf j
        else
          t.pal.palOk = false ∧ t.pal.palLen = 0 ∧ t.regs = { s.regs with err := s.regs.err ||| 0x1000 }
            ∧ ∀ j, t.byte .palbuf j = s.byte .palbuf j)
      ∧ (∀ b j, b ≠ .segd → b ≠ .segl → b ≠ .palbuf → t.byte b j = s.byte b j)
      ∧ t.tx = s.tx ∧ t.df = s.df ∧ t.hold = s.hold ∧ t.urx = s.urx ∧ t.tick = s.tick ∧ t.env = s.env

/-- 43_ucan_pallet.md R251, R255, R256: a first-flagged segment whose count disagrees with PAL_N, and PAL_ABORT with a
reassembly in progress, end it with failure; PAL_ABORT without one does nothing, and a word of it with any bit 23:0 set is refused. -/
def Obligations.ReassemblyFailsOnConflictOrAbort : Prop :=
  ∀ s : State,
    let failed (m : BitVec 15) : Result := .next
      { s with
        regs := { s.regs with err := s.regs.err ||| m }
        pal := { s.pal with palLen := 0, palOk := false, palDone := true, keys := 0, palN := 0 } }
    (1 ≤ s.pal.canLen → 128 ≤ (s.byte .canbuf 0).toNat → s.pal.palN ≠ 0 →
        s.pal.palN ≠ (s.byte .canbuf 0).toNat % 128 + 1 → exec .palSeg s = failed 0x2000)
      ∧ badopUnless 0x4A (· = 0) s ∧ (s.pal.keys ≠ 0 → exec .palAbort s = failed 0x4000)
      ∧ (s.pal.keys = 0 → exec .palAbort s = .next s)

/-- 43_ucan_pallet.md R258: the segments of one pallet, each given once to PAL_SEG in any order, from an empty
reassembler, complete it with the transmitted data. -/
def Obligations.PalletReassemblesInAnyOrder : Prop :=
  ∀ (s : State) (d : List Byte) (order : List Nat), s.pal.keys = 0 → s.pal.palN = 0 → d.length ≤ 892 →
    let buf := palletBuffer s.regs.c32init d
    order.Perm (List.range (segCount buf.length)) →
    let t := order.foldl (fun s i => giveSegment s (segmentOf buf i)) s
    t.pal.palDone = true ∧ t.pal.palOk = true ∧ t.pal.palLen = d.length ∧ t.bytes .palbuf 0 d.length = d
      ∧ t.pal.keys = 0 ∧ t.pal.palN = 0 ∧ t.regs = s.regs

/-! ## Control commands and reset -/

/-- 45_control.md R350, R352, R353, R354: NOP changes nothing; TXB_CLR, unless refused with BUSY, RXB_REL and CANB_CLR
each change their one element and nothing else; a word of theirs with any bit 23:0 set is refused with BADOP. -/
def Obligations.ClearCommandsChangeOneElement : Prop :=
  ∀ s : State,
    exec .nop s = .next s
      ∧ exec .txbClr s =
          .next (if s.tx.txBusy = true then errSet 0x2 s else { s with tx := { s.tx with txLen := 0 } })
      ∧ exec .rxbRel s = .next { s with hold := { s.hold with rxFull := false } }
      ∧ exec .canbClr s = .next { s with pal := { s.pal with canLen := 0 } }
      ∧ badopUnless 0x00 (· = 0) s ∧ badopUnless 0x20 (· = 0) s ∧ badopUnless 0x21 (· = 0) s
      ∧ badopUnless 0x22 (· = 0) s

/-- 45_control.md R351: SRST puts every register and internal element of 70_reset_and_hazards.md R451 at its reset value
and the pins at rest, in every state, and keeps the contents of the six buffers; a word of it with any bit 23:0 set is
refused with BADOP. -/
def Obligations.SrstResetsAndKeepsBuffers : Prop :=
  ∀ s : State, badopUnless 0x01 (· = 0) s
    ∧ ∃ t, exec .srst s = .next t ∧ registersReset t ∧ ∀ b j, b ≠ .segd → b ≠ .segl → t.byte b j = s.byte b j

/-- 70_reset_and_hazards.md R451, R453: a clock edge with `rst_n` low puts every register and internal element at its
reset value and the pins at rest, and the state after power-on is so too. -/
def Obligations.RstNResetsEverything : Prop :=
  registersReset State.reset
    ∧ ∀ s : State, s.nextInput = .rstN → ∃ t, step s = .next t ∧ registersReset t

/-! ## Bus accesses -/

/-- 45_control.md R341, 10_state.md R39, R47, R49: what a read of each register returns and
does (the value returned is in the model's env.rdata, log entry 7). -/
def Obligations.RegisterReadsReturnTheirValue : Prop :=
  ∀ s : State,
    let gives (a : Addr) (v : Nat) : Prop :=
      exec (.busRead a) s = .next { s with env := { s.env with rdata := BitVec.ofNat 32 v } }
    let num (b : Bool) : Nat := if b then 1 else 0
    gives 0x0000 s.regs.ctrl.toNat ∧ gives 0x0004 s.statusWord.toNat ∧ gives 0x0008 s.regs.err.toNat
      ∧ gives 0x000C s.regs.irqEn.toNat ∧ gives 0x0010 0
      ∧ gives 0x0014 (s.regs.frameCfg.sm.toNat + s.regs.frameCfg.em.toNat * 2 ^ 8
          + num (s.regs.frameCfg.chk == .crc32) * 2 ^ 16 + num s.regs.frameCfg.lw * 2 ^ 18
          + s.regs.frameCfg.iw.val * 2 ^ 19)
      ∧ gives 0x0018 s.tick.div.toNat ∧ gives 0x001C s.regs.c32init.toNat ∧ gives 0x0020 s.regs.s8.toNat
      ∧ gives 0x0024 s.regs.c32.toNat ∧ gives 0x0028 s.regs.txInstr.toNat
      ∧ gives 0x002C (s.tx.txLen % 2 ^ 11) ∧ gives 0x0030 0 ∧ gives 0x0034 (s.hold.rxLen % 2 ^ 11)
      ∧ gives 0x0038 s.hold.rxInstr.toNat ∧ gives 0x003C (s.pal.canLen % 2 ^ 4) ∧ gives 0x0040 0
      ∧ gives 0x0044 (s.pal.segN % 2 ^ 8 + s.pal.segLastLen % 2 ^ 4 * 2 ^ 8)
      ∧ gives 0x0048 (s.pal.palN % 2 ^ 8 + s.pal.palLen % 2 ^ 10 * 2 ^ 8)
      ∧ gives 0x0050 (s.urx.rawFifo.length % 2 ^ 5) ∧ gives 0x0058 s.urx.rxbShadow.toNat
      ∧ gives 0x0060 s.tx.txbShadow.toNat ∧ gives 0x0064 s.hold.cntBadframe.toNat
      ∧ gives 0x0068 s.hold.cntOverrun.toNat ∧ gives 0x006C (s.pal.keys.toNat % 2 ^ 32)
      ∧ gives 0x0070 (s.pal.keys.toNat / 2 ^ 32 % 2 ^ 32) ∧ gives 0x0074 (s.pal.keys.toNat / 2 ^ 64 % 2 ^ 32)
      ∧ gives 0x0078 (s.pal.keys.toNat / 2 ^ 96)

/-- 20_memory.md R80, 10_state.md R39, R47: the three reads with a side effect: RAWDATA pops the oldest byte, and the
LO half of a counter latches its HI half (the value returned is in the model's env.rdata, log entry 7). -/
def Obligations.ReadSideEffects : Prop :=
  ∀ s : State,
    (s.urx.rawFifo = [] → exec (.busRead 0x004C) s = .next { s with env := { s.env with rdata := 0 } })
      ∧ (∀ b rest, s.urx.rawFifo = b :: rest → exec (.busRead 0x004C) s = .next
          { s with urx := { s.urx with rawFifo := rest }
                   env := { s.env with rdata := BitVec.ofNat 32 (0x100 + b.toNat) } })
      ∧ exec (.busRead 0x0054) s = .next
          { s with urx := { s.urx with rxbShadow := BitVec.ofNat 32 (s.urx.rxb.toNat / 2 ^ 32) }
                   env := { s.env with rdata := BitVec.ofNat 32 s.urx.rxb.toNat } }
      ∧ exec (.busRead 0x005C) s = .next
          { s with tx := { s.tx with txbShadow := BitVec.ofNat 32 (s.tx.txb.toNat / 2 ^ 32) }
                   env := { s.env with rdata := BitVec.ofNat 32 s.tx.txb.toNat } }

/-- 10_state.md R24, 44_serial.md R306: the fields of STATUS, and the pin `de` is TX_BUSY. -/
def Obligations.StatusFields : Prop :=
  ∀ s : State,
    let w := s.statusWord
    w.getLsbD 0 = s.hold.rxFull ∧ w.getLsbD 1 = s.tx.txBusy ∧ w.getLsbD 2 = s.tx.txDone
      ∧ w.getLsbD 3 = decide (s.pal.keys ≠ 0) ∧ w.getLsbD 4 = s.pal.palDone ∧ w.getLsbD 5 = s.pal.palOk
      ∧ w.getLsbD 6 = s.regs.ucOk ∧ w.getLsbD 7 = decide (s.urx.rawFifo ≠ [])
      ∧ w.toNat / 2 ^ 8 % 8 = (match s.df.rxst with
          | .hunt => 0 | .len => 1 | .instr => 2 | .pay => 3 | .chk => 4 | .endm => 5)
      ∧ w.toNat / 2 ^ 11 % 8 = (match s.urx.urxst with
          | .idle => 0 | .start => 1 | .data => 2 | .stop => 3 | .brk => 4)
      ∧ w.toNat / 2 ^ 14 % 4 = (match s.tx.utxst with
          | .tidle => 0 | .tstart => 1 | .tdata => 2 | .tstop => 3)
      ∧ w.getLsbD 16 = s.de ∧ s.de = s.tx.txBusy ∧ w.toNat < 2 ^ 17

/-- 20_memory.md R72, R73: a window read returns the buffer's byte and does nothing else; a window write does
nothing (the value returned is in the model's env.rdata, log entry 7). -/
def Obligations.WindowsShowBuffers : Prop :=
  ∀ (s : State) (v : Word) (b : Buffer) (base size : Nat),
    (b, base, size) ∈ [(.txbuf, 0x1000, 1024), (.rxbuf, 0x2000, 1024), (.segbuf, 0x3000, 1024),
                       (.palbuf, 0x4000, 1024), (.canbuf, 0x5000, 8)] →
    ∀ i, i < size →
      exec (.busRead (BitVec.ofNat 16 (base + 4 * i))) s =
          .next { s with env := { s.env with rdata := (s.byte b i).setWidth 32 } }
        ∧ exec (.busWrite (BitVec.ofNat 16 (base + 4 * i)) v) s = .next s

/-- 20_memory.md R74: an unmapped read returns 0 and an unmapped write does nothing, each setting BADADDR; a mapped
access never sets it (the value returned is in the model's env.rdata, log entry 7). -/
def Obligations.UnmappedAccessSetsBadaddr : Prop :=
  ∀ (s : State) (a : Addr) (v : Word),
    ((a.toNat % 4 ≠ 0 ∨ (0x007C ≤ a.toNat ∧ a.toNat ≤ 0x0FFF) ∨ 0x5020 ≤ a.toNat) →
      exec (.busRead a) s = .next
          { s with regs := { s.regs with err := s.regs.err ||| 0x20 }, env := { s.env with rdata := 0 } }
        ∧ exec (.busWrite a v) s = .next { s with regs := { s.regs with err := s.regs.err ||| 0x20 } })
      ∧ (a.toNat % 4 = 0 → (a.toNat < 0x007C ∨ (0x1000 ≤ a.toNat ∧ a.toNat < 0x5020)) →
          ∀ t, (exec (.busRead a) s = .next t ∨ exec (.busWrite a v) s = .next t) →
            s.regs.err.getLsbD 5 = false → t.regs.err.getLsbD 5 = false)

/-- 45_control.md R342, R344, R349, 10_state.md R31, R32: the writes of STATUS, ERR, IRQ_EN, BAUDDIV, S8 and C32, and,
with no transmission in progress, of C32INIT and TXINSTR, each with the register's bits and nothing else changed. -/
def Obligations.PlainRegisterWrites : Prop :=
  ∀ (s : State) (v : Word),
    exec (.busWrite 0x0004 v) s = .next
        { s with tx := { s.tx with txDone := s.tx.txDone && !v.getLsbD 2 }
                 pal := { s.pal with palDone := s.pal.palDone && !v.getLsbD 4 } }
      ∧ (∃ e : BitVec 15, (∀ k, k < 15 → e.getLsbD k = (s.regs.err.getLsbD k && !v.getLsbD k))
          ∧ exec (.busWrite 0x0008 v) s = .next { s with regs := { s.regs with err := e } })
      ∧ exec (.busWrite 0x000C v) s = .next { s with regs := { s.regs with irqEn := BitVec.ofNat 5 v.toNat } }
      ∧ exec (.busWrite 0x0018 v) s = .next { s with tick := { s.tick with div := BitVec.ofNat 16 v.toNat, dv := 0 } }
      ∧ exec (.busWrite 0x0020 v) s = .next { s with regs := { s.regs with s8 := BitVec.ofNat 8 v.toNat } }
      ∧ exec (.busWrite 0x0024 v) s = .next { s with regs := { s.regs with c32 := v } }
      ∧ (s.tx.txBusy = false → exec (.busWrite 0x001C v) s = .next { s with regs := { s.regs with c32init := v } })
      ∧ (s.tx.txBusy = false → exec (.busWrite 0x0028 v) s = .next { s with regs := { s.regs with txInstr := v } })

/-- 45_control.md R347, 42_frame_rx.md R214, 44_serial.md R316: a CTRL write sets the three enables, puts the deframer
in HUNT when RX_EN falls or PASSTHRU rises and the sampler in IDLE when RX_EN falls, and changes nothing else. -/
def Obligations.CtrlWriteSetsEnables : Prop :=
  ∀ (s : State) (v : Word),
    exec (.busWrite 0x0000 v) s = .next
      { s with
        regs := { s.regs with ctrl := BitVec.ofNat 3 v.toNat }
        df := if (s.rxEn = true ∧ v.getLsbD 0 = false) ∨ (s.passthru = false ∧ v.getLsbD 2 = true)
          then { s.df with rxst := .hunt } else s.df
        urx := if s.rxEn = true ∧ v.getLsbD 0 = false then { s.urx with urxst := .idle } else s.urx }

/-- 45_control.md R348: a FRAMECFG write is refused with BUSY while a transmission is in progress, and otherwise sets SM,
EM and LW, sets CHK and IW when their new values are legal and keeps them when not, puts the deframer in HUNT, and
changes nothing else. -/
def Obligations.FramecfgWriteKeepsReservedFields : Prop :=
  ∀ (s : State) (v : Word), (s.tx.txBusy = true → exec (.busWrite 0x0014 v) s = .next (errSet 0x2 s))
    ∧ (s.tx.txBusy = false → ∃ c : FrameCfg, exec (.busWrite 0x0014 v) s = .next
        { s with regs := { s.regs with frameCfg := c }, df := { s.df with rxst := .hunt } }
      ∧ c.sm.toNat = v.toNat % 256 ∧ c.em.toNat = v.toNat / 256 % 256 ∧ c.lw = decide (v.toNat / 2 ^ 18 % 2 = 1)
      ∧ c.chk = (if v.toNat / 2 ^ 16 % 4 = 0 then .sum8 else if v.toNat / 2 ^ 16 % 4 = 1 then .crc32
          else s.regs.frameCfg.chk)
      ∧ c.iw.val = (if v.toNat / 2 ^ 19 % 8 ≤ 4 then v.toNat / 2 ^ 19 % 8 else s.regs.frameCfg.iw.val))

/-- 45_control.md R345, R346: a push stores the byte at the end of its buffer and counts it, and changes nothing else,
or is refused by the first of its checks that fails. -/
def Obligations.DataPushesAppend : Prop :=
  ∀ (s : State) (v : Word),
    (s.tx.txBusy = true → exec (.busWrite 0x0030 v) s = .next (errSet 0x2 s))
      ∧ (s.tx.txBusy = false → s.tx.txLen = 1024 → exec (.busWrite 0x0030 v) s = .next (errSet 0x1 s))
      ∧ (s.pal.canLen = 8 → exec (.busWrite 0x0040 v) s = .next (errSet 0x800 s))
      ∧ (s.tx.txBusy = false → s.tx.txLen ≠ 1024 → ∃ t, exec (.busWrite 0x0030 v) s = .next t
        ∧ t.tx = { s.tx with txLen := s.tx.txLen + 1 }
        ∧ t.byte .txbuf s.tx.txLen = BitVec.ofNat 8 v.toNat
        ∧ (∀ b j, (b ≠ .txbuf ∨ j ≠ s.tx.txLen) → t.byte b j = s.byte b j)
        ∧ t.regs = s.regs ∧ t.df = s.df ∧ t.hold = s.hold ∧ t.urx = s.urx ∧ t.tick = s.tick ∧ t.pal = s.pal
        ∧ t.env = s.env)
      ∧ (s.pal.canLen ≠ 8 → ∃ t, exec (.busWrite 0x0040 v) s = .next t
        ∧ t.pal = { s.pal with canLen := s.pal.canLen + 1 }
        ∧ t.byte .canbuf s.pal.canLen = BitVec.ofNat 8 v.toNat
        ∧ (∀ b j, (b ≠ .canbuf ∨ j ≠ s.pal.canLen) → t.byte b j = s.byte b j)
        ∧ t.regs = s.regs ∧ t.tx = s.tx ∧ t.df = s.df ∧ t.hold = s.hold ∧ t.urx = s.urx ∧ t.tick = s.tick
        ∧ t.env = s.env)

/-- 45_control.md R343: a write to a read-only register, to a buffer window, or of a STATUS value with bits 2 and 4
zero, changes nothing. -/
def Obligations.ReadOnlyWritesAreIgnored : Prop :=
  ∀ (s : State) (a : Addr) (v : Word),
    (a ∈ ([0x002C, 0x0034, 0x0038, 0x003C, 0x0044, 0x0048, 0x004C, 0x0050, 0x0054, 0x0058, 0x005C, 0x0060, 0x0064,
           0x0068, 0x006C, 0x0070, 0x0074, 0x0078] : List Addr)
        ∨ (0x1000 ≤ a.toNat ∧ a.toNat < 0x5020 ∧ a.toNat % 4 = 0)
        ∨ (a = 0x0004 ∧ v.getLsbD 2 = false ∧ v.getLsbD 4 = false)) →
    exec (.busWrite a v) s = .next s

/-! ## Rules of the whole machine -/

/-- 60_exceptions.md R410, R414: `irq` is 1 exactly when a source is enabled and its condition holds; after reset no
source is enabled. -/
def Obligations.IrqIsAnyEnabledCondition : Prop :=
  (∀ s : State, s.irq = true ↔
    ∃ k, k < 5 ∧ s.regs.irqEn.getLsbD k = true
      ∧ ((k = 0 ∧ s.hold.rxFull = true) ∨ (k = 1 ∧ s.tx.txDone = true) ∨ (k = 2 ∧ s.pal.palDone = true)
        ∨ (k = 3 ∧ s.regs.err ≠ 0) ∨ (k = 4 ∧ s.urx.rawFifo ≠ [])))
    ∧ (∀ s : State, s.regs.irqEn = 0 → s.irq = false) ∧ State.reset.regs.irqEn = 0

/-- 10_state.md R25: an ERR bit that is set stays set until the host writes a 1 to it, SRST or `rst_n`. -/
def Obligations.ErrBitsAreSticky : Prop :=
  ∀ (s t : State) (k : Nat), step s = .next t → s.regs.err.getLsbD k = true →
    t.regs.err.getLsbD k = true ∨ s.nextInput = .rstN ∨ s.nextInput = .host (.write 0x0010 0x01000000)
      ∨ ∃ v, s.nextInput = .host (.write 0x0008 v) ∧ v.getLsbD k = true

/-- 10_state.md R47, R48: the byte counters and the frame counters never decrease but by SRST or `rst_n`. -/
def Obligations.CountersNeverDecrease : Prop :=
  ∀ s t : State, step s = .next t →
    (s.urx.rxb.toNat ≤ t.urx.rxb.toNat ∧ s.tx.txb.toNat ≤ t.tx.txb.toNat
      ∧ s.hold.cntBadframe.toNat ≤ t.hold.cntBadframe.toNat ∧ s.hold.cntOverrun.toNat ≤ t.hold.cntOverrun.toNat)
    ∨ s.nextInput = .rstN ∨ s.nextInput = .host (.write 0x0010 0x01000000)

/-- 70_reset_and_hazards.md R478: the checksum and pallet commands share no state with the engines: they leave the
serializer, the deframer, the hold registers, the sampler, the raw FIFO, the bit clock and the configuration. -/
def Obligations.CheckAndPalletCommandsLeaveEngines : Prop :=
  ∀ (i : Instr) (s t : State), exec i s = .next t →
    (i = .s8Clr ∨ (∃ b, i = .s8Add b) ∨ i = .c32Init ∨ (∃ b, i = .c32Add b) ∨ i = .ucBuild ∨ (∃ l, i = .ucCheck l)
      ∨ i = .palTx ∨ i = .palSeg ∨ i = .palAbort) →
    t.tx = { s.tx with txLen := t.tx.txLen } ∧ (i ≠ .ucBuild → t.tx.txLen = s.tx.txLen) ∧ t.df = s.df ∧ t.hold = s.hold
      ∧ t.urx = s.urx ∧ t.tick = s.tick ∧ t.env = s.env ∧ t.regs.ctrl = s.regs.ctrl ∧ t.regs.irqEn = s.regs.irqEn
      ∧ t.regs.frameCfg = s.regs.frameCfg ∧ t.regs.c32init = s.regs.c32init ∧ t.regs.txInstr = s.regs.txInstr
      ∧ (∀ j, t.byte .rxbuf j = s.byte .rxbuf j ∧ t.byte .asm j = s.byte .asm j)

/-- 20_memory.md R90: but for `rst_n`, TXBUF changes only by TXDATA and UC_BUILD, SEGBUF only by PAL_TX, PALBUF only by
PAL_SEG, CANBUF only by CANDATA, and RXBUF and ASM by no host access. -/
def Obligations.BuffersChangeOnlyByTheirOwners : Prop :=
  ∀ s t : State, step s = .next t → s.nextInput ≠ .rstN →
    let runs (i : Instr) : Prop := ∃ acc, s.nextInput = .host acc ∧ decode acc = i
    ((∀ j, t.byte .txbuf j = s.byte .txbuf j) ∨ runs .ucBuild ∨ ∃ v, runs (.busWrite 0x0030 v))
      ∧ ((∀ j, t.byte .segbuf j = s.byte .segbuf j) ∨ runs .palTx)
      ∧ ((∀ j, t.byte .palbuf j = s.byte .palbuf j) ∨ runs .palSeg)
      ∧ ((∀ j, t.byte .canbuf j = s.byte .canbuf j) ∨ ∃ v, runs (.busWrite 0x0040 v))
      ∧ ((∀ j, t.byte .rxbuf j = s.byte .rxbuf j ∧ t.byte .asm j = s.byte .asm j)
          ∨ ¬ ∃ acc, s.nextInput = .host acc)

/-- 00_scope.md R6, 20_memory.md R84: an engine's step is one tick of that engine alone when it is owed one, and
nothing when it is not; and a clock edge, known or drawn, waits while an engine is still owed the last tick (the waiting
and the two steps of a tick are the model's choice, log entries 2 and 3; the inputs, log entry 1). -/
def Obligations.EnginesTakeOwedTicks : Prop :=
  ∀ s : State,
    (∀ r, s.nextInput = .clk r →
      (s.tick.txOwed = true →
        step s = .next { s with tx := serializerTick s.tx, tick := { s.tick with txOwed := false } })
      ∧ (∀ r', s.tick.txOwed = false → s.tick.rxOwed = some r' →
          step s = .next (samplerTick r' { s with tick := { s.tick with rxOwed := none } }))
      ∧ (s.tick.txOwed = false → s.tick.rxOwed = none → step s = .next (clockEdge r s.popInput)))
    ∧ (s.nextInput = .serializer →
      (s.tick.txOwed = true →
        step s = .next { s.popInput with tx := serializerTick s.tx, tick := { s.tick with txOwed := false } })
      ∧ (s.tick.txOwed = false → step s = .next s.popInput))
    ∧ (s.nextInput = .sampler →
      (∀ r', s.tick.rxOwed = some r' →
        step s = .next (samplerTick r' { s.popInput with tick := { s.tick with rxOwed := none } }))
      ∧ (s.tick.rxOwed = none → step s = .next s.popInput))

/-! ## Invariants -/

/-- Every step keeps every byte store in canonical form (the model's own form of memory, log entry 4). -/
def Obligations.StepKeepsMemoryCanonical : Prop :=
  ∀ s t : State, memCanonical s → step s = .next t → memCanonical t

/-- 10_state.md R24, 44_serial.md R305: every step keeps TX_BUSY equal to whether bytes are still to be sent. -/
def Obligations.StepKeepsTransmitSound : Prop :=
  ∀ s t : State, transmitSound s → step s = .next t → transmitSound t

/-- 10_state.md R40, R45, R46: every step keeps the serializer's and the sampler's counters in their ranges, and the
divider at most DIV. -/
def Obligations.StepKeepsCountersInRange : Prop :=
  ∀ s t : State, serializerCounts s.tx → samplerCounts s.urx → dividerInRange s → step s = .next t →
    serializerCounts t.tx ∧ samplerCounts t.urx ∧ dividerInRange t

/-- 42_frame_rx.md R214, 44_serial.md R316, R320: every step keeps the sampler idle and the deframer hunting with the
receiver off, and the deframer hunting in passthrough mode. -/
def Obligations.StepKeepsReceiveModes : Prop :=
  ∀ s t : State, receiveModes s → step s = .next t → receiveModes t

/-- 42_frame_rx.md R201 to R208, 70_reset_and_hazards.md R452: every step keeps the deframer inside its field and every
buffer byte below a length register written. -/
def Obligations.StepKeepsBuffersWritten : Prop :=
  ∀ s t : State, deframerInField s → lengthsWritten s → step s = .next t → deframerInField t ∧ lengthsWritten t

/-- 43_ucan_pallet.md R252, R255: every step keeps the reassembler sound: the segments of KEYS stored, PAL_N latched
only with its key, PAL_LEN at most 892. -/
def Obligations.StepKeepsReassemblerSound : Prop :=
  ∀ s t : State, reassemblerSound s → step s = .next t → reassemblerSound t

/-- Each invariant above holds in the state after reset (70_reset_and_hazards.md R451, R452; that a store lists nothing
is the model's own form of unspecified contents, log entry 4). -/
def Obligations.InvariantsHoldAtReset : Prop :=
  (∀ b, State.reset.store b = []) ∧ memCanonical State.reset ∧ transmitSound State.reset ∧ serializerCounts State.reset.tx
    ∧ samplerCounts State.reset.urx ∧ dividerInRange State.reset ∧ receiveModes State.reset
    ∧ deframerInField State.reset ∧ lengthsWritten State.reset ∧ reassemblerSound State.reset
end

