-- ==== Sys2Proof/Laws/Decode.lean ====
section
/-! SUPPORT. The decoder: no word selects two rows of the opcode map, and a command word decodes to a command. -/

namespace Sys2Proof

/-- Two rows that one word selects agree on every bit both of them fix. -/
def CmdRow.overlaps (r q : CmdRow) : Bool := r.pattern &&& q.mask == q.pattern &&& r.mask

/-- No two rows of the opcode map overlap (30_encoding.md R105). -/
theorem cmdTable_disjoint : cmdTable.Pairwise (fun r q => r.overlaps q = false) := by
  decide

theorem overlaps_of_selects {r q : CmdRow} {w : Word} (hr : r.selects w = true) (hq : q.selects w = true) :
    r.overlaps q = true := by
  simp only [CmdRow.selects, CmdRow.overlaps, beq_iff_eq] at *
  rw [← hr, ← hq, BitVec.and_assoc, BitVec.and_assoc, BitVec.and_comm r.mask]

/-- What the decoder of command words gives: the row the word selects, or a rejection when it selects none. -/
theorem decodeCmd_cases (w : Word) :
    (∃ r ∈ cmdTable, r.selects w = true ∧ decodeCmd w = .ok (r.build w)) ∨
    ((∀ r ∈ cmdTable, r.selects w = false) ∧ decodeCmd w = .error (rejectReason w)) := by
  unfold decodeCmd
  split
  · rename_i r h
    exact .inl ⟨r, List.mem_of_find?_eq_some h, by simpa using List.find?_some h, rfl⟩
  · rename_i h
    exact .inr ⟨fun r hr => by simpa using List.find?_eq_none.mp h r hr, rfl⟩

/-- Every row of the opcode map builds a command. -/
theorem cmdTable_build_isCommand : ∀ r ∈ cmdTable, ∀ w, (encodeCmd (r.build w)).isSome = true := by
  intro r hr w
  simp only [cmdTable, List.mem_cons, List.not_mem_nil, or_false] at hr
  rcases hr with rfl | rfl | rfl | rfl | rfl | rfl | rfl | rfl | rfl | rfl | rfl | rfl | rfl | rfl | rfl | rfl <;> rfl

/-- A word written to CMD never decodes to a bus access. -/
theorem decodeCmd_isCommand {w : Word} {i : Instr} (h : decodeCmd w = .ok i) : (encodeCmd i).isSome = true := by
  rcases decodeCmd_cases w with ⟨r, hr, -, he⟩ | ⟨-, he⟩
  · rw [he] at h; injection h with h; subst h
    exact cmdTable_build_isCommand r hr w
  · rw [he] at h; cases h

/-- Every access decodes to itself, unless it writes a command word to CMD. -/
theorem decode_cases (acc : BusAccess) :
    (∃ a, acc = .read a ∧ decode acc = .busRead a) ∨
    (∃ a v, acc = .write a v ∧ decode acc = .busWrite a v) ∨
    (∃ v i, acc = .write cmdAddr v ∧ decodeCmd v = .ok i ∧ decode acc = i) := by
  cases acc with
  | read a => exact .inl ⟨a, rfl, rfl⟩
  | write a v =>
    unfold decode
    by_cases h : a = cmdAddr
    · subst h
      cases hd : decodeCmd v with
      | error e => exact .inr (.inl ⟨cmdAddr, v, rfl, by simp [hd]⟩)
      | ok i => exact .inr (.inr ⟨v, i, rfl, hd, by simp [hd]⟩)
    · exact .inr (.inl ⟨a, v, rfl, by simp [h]⟩)

end Sys2Proof
end

