-- ==== Sys2Proof/Laws/State.lean ====
section
/-! SUPPORT. For each named update of the state, what each group of fields is after it: one lemma per group, so that
no later proof unfolds a record update. -/

namespace Sys2Proof.Machine

-- flagErr
@[simp] theorem flagErr_regs (e : Err) (s : State) : (flagErr e s).regs = { s.regs with err := s.regs.err ||| e.mask } := rfl
@[simp] theorem flagErr_tx (e : Err) (s : State) : (flagErr e s).tx = s.tx := rfl
@[simp] theorem flagErr_df (e : Err) (s : State) : (flagErr e s).df = s.df := rfl
@[simp] theorem flagErr_hold (e : Err) (s : State) : (flagErr e s).hold = s.hold := rfl
@[simp] theorem flagErr_urx (e : Err) (s : State) : (flagErr e s).urx = s.urx := rfl
@[simp] theorem flagErr_tick (e : Err) (s : State) : (flagErr e s).tick = s.tick := rfl
@[simp] theorem flagErr_pal (e : Err) (s : State) : (flagErr e s).pal = s.pal := rfl
@[simp] theorem flagErr_mem (e : Err) (s : State) : (flagErr e s).mem = s.mem := rfl
@[simp] theorem flagErr_env (e : Err) (s : State) : (flagErr e s).env = s.env := rfl

-- setRdata
@[simp] theorem setRdata_regs (v : Word) (s : State) : (setRdata v s).regs = s.regs := rfl
@[simp] theorem setRdata_tx (v : Word) (s : State) : (setRdata v s).tx = s.tx := rfl
@[simp] theorem setRdata_df (v : Word) (s : State) : (setRdata v s).df = s.df := rfl
@[simp] theorem setRdata_hold (v : Word) (s : State) : (setRdata v s).hold = s.hold := rfl
@[simp] theorem setRdata_urx (v : Word) (s : State) : (setRdata v s).urx = s.urx := rfl
@[simp] theorem setRdata_tick (v : Word) (s : State) : (setRdata v s).tick = s.tick := rfl
@[simp] theorem setRdata_pal (v : Word) (s : State) : (setRdata v s).pal = s.pal := rfl
@[simp] theorem setRdata_mem (v : Word) (s : State) : (setRdata v s).mem = s.mem := rfl
@[simp] theorem setRdata_env (v : Word) (s : State) : (setRdata v s).env = { s.env with rdata := v } := rfl

-- putBytes
@[simp] theorem putBytes_regs (b : Buffer) (i : Nat) (bs : List Byte) (s : State) : (s.putBytes b i bs).regs = s.regs := rfl
@[simp] theorem putBytes_tx (b : Buffer) (i : Nat) (bs : List Byte) (s : State) : (s.putBytes b i bs).tx = s.tx := rfl
@[simp] theorem putBytes_df (b : Buffer) (i : Nat) (bs : List Byte) (s : State) : (s.putBytes b i bs).df = s.df := rfl
@[simp] theorem putBytes_hold (b : Buffer) (i : Nat) (bs : List Byte) (s : State) : (s.putBytes b i bs).hold = s.hold := rfl
@[simp] theorem putBytes_urx (b : Buffer) (i : Nat) (bs : List Byte) (s : State) : (s.putBytes b i bs).urx = s.urx := rfl
@[simp] theorem putBytes_tick (b : Buffer) (i : Nat) (bs : List Byte) (s : State) : (s.putBytes b i bs).tick = s.tick := rfl
@[simp] theorem putBytes_pal (b : Buffer) (i : Nat) (bs : List Byte) (s : State) : (s.putBytes b i bs).pal = s.pal := rfl
@[simp] theorem putBytes_mem (b : Buffer) (i : Nat) (bs : List Byte) (s : State) : (s.putBytes b i bs).mem = s.mem.set b (Memory.putList (s.store b) i bs) := rfl
@[simp] theorem putBytes_env (b : Buffer) (i : Nat) (bs : List Byte) (s : State) : (s.putBytes b i bs).env = s.env := rfl

-- startTx
@[simp] theorem startTx_regs (q : List Byte) (s : State) : (startTx q s).regs = s.regs := rfl
@[simp] theorem startTx_tx (q : List Byte) (s : State) : (startTx q s).tx = { s.tx with txq := q, txDone := false, txBusy := true } := rfl
@[simp] theorem startTx_df (q : List Byte) (s : State) : (startTx q s).df = s.df := rfl
@[simp] theorem startTx_hold (q : List Byte) (s : State) : (startTx q s).hold = s.hold := rfl
@[simp] theorem startTx_urx (q : List Byte) (s : State) : (startTx q s).urx = s.urx := rfl
@[simp] theorem startTx_tick (q : List Byte) (s : State) : (startTx q s).tick = s.tick := rfl
@[simp] theorem startTx_pal (q : List Byte) (s : State) : (startTx q s).pal = s.pal := rfl
@[simp] theorem startTx_mem (q : List Byte) (s : State) : (startTx q s).mem = s.mem := rfl
@[simp] theorem startTx_env (q : List Byte) (s : State) : (startTx q s).env = s.env := rfl

-- toHunt
@[simp] theorem toHunt_regs (s : State) : (toHunt s).regs = s.regs := rfl
@[simp] theorem toHunt_tx (s : State) : (toHunt s).tx = s.tx := rfl
@[simp] theorem toHunt_df (s : State) : (toHunt s).df = { s.df with rxst := .hunt } := rfl
@[simp] theorem toHunt_hold (s : State) : (toHunt s).hold = s.hold := rfl
@[simp] theorem toHunt_urx (s : State) : (toHunt s).urx = s.urx := rfl
@[simp] theorem toHunt_tick (s : State) : (toHunt s).tick = s.tick := rfl
@[simp] theorem toHunt_pal (s : State) : (toHunt s).pal = s.pal := rfl
@[simp] theorem toHunt_mem (s : State) : (toHunt s).mem = s.mem := rfl
@[simp] theorem toHunt_env (s : State) : (toHunt s).env = s.env := rfl

-- setUrxst
@[simp] theorem setUrxst_regs (x : UrxState) (s : State) : (setUrxst x s).regs = s.regs := rfl
@[simp] theorem setUrxst_tx (x : UrxState) (s : State) : (setUrxst x s).tx = s.tx := rfl
@[simp] theorem setUrxst_df (x : UrxState) (s : State) : (setUrxst x s).df = s.df := rfl
@[simp] theorem setUrxst_hold (x : UrxState) (s : State) : (setUrxst x s).hold = s.hold := rfl
@[simp] theorem setUrxst_urx (x : UrxState) (s : State) : (setUrxst x s).urx = { s.urx with urxst := x } := rfl
@[simp] theorem setUrxst_tick (x : UrxState) (s : State) : (setUrxst x s).tick = s.tick := rfl
@[simp] theorem setUrxst_pal (x : UrxState) (s : State) : (setUrxst x s).pal = s.pal := rfl
@[simp] theorem setUrxst_mem (x : UrxState) (s : State) : (setUrxst x s).mem = s.mem := rfl
@[simp] theorem setUrxst_env (x : UrxState) (s : State) : (setUrxst x s).env = s.env := rfl

-- dropFrame
@[simp] theorem dropFrame_regs (e : Err) (s : State) : (dropFrame e s).regs = { s.regs with err := s.regs.err ||| e.mask } := rfl
@[simp] theorem dropFrame_tx (e : Err) (s : State) : (dropFrame e s).tx = s.tx := rfl
@[simp] theorem dropFrame_df (e : Err) (s : State) : (dropFrame e s).df = { s.df with rxst := .hunt } := rfl
@[simp] theorem dropFrame_hold (e : Err) (s : State) : (dropFrame e s).hold = { s.hold with cntBadframe := satInc16 s.hold.cntBadframe } := rfl
@[simp] theorem dropFrame_urx (e : Err) (s : State) : (dropFrame e s).urx = s.urx := rfl
@[simp] theorem dropFrame_tick (e : Err) (s : State) : (dropFrame e s).tick = s.tick := rfl
@[simp] theorem dropFrame_pal (e : Err) (s : State) : (dropFrame e s).pal = s.pal := rfl
@[simp] theorem dropFrame_mem (e : Err) (s : State) : (dropFrame e s).mem = s.mem := rfl
@[simp] theorem dropFrame_env (e : Err) (s : State) : (dropFrame e s).env = s.env := rfl

-- palFinish
@[simp] theorem palFinish_regs (s : State) : (palFinish s).regs = s.regs := rfl
@[simp] theorem palFinish_tx (s : State) : (palFinish s).tx = s.tx := rfl
@[simp] theorem palFinish_df (s : State) : (palFinish s).df = s.df := rfl
@[simp] theorem palFinish_hold (s : State) : (palFinish s).hold = s.hold := rfl
@[simp] theorem palFinish_urx (s : State) : (palFinish s).urx = s.urx := rfl
@[simp] theorem palFinish_tick (s : State) : (palFinish s).tick = s.tick := rfl
@[simp] theorem palFinish_pal (s : State) : (palFinish s).pal = { s.pal with palDone := true, keys := 0, palN := 0 } := rfl
@[simp] theorem palFinish_mem (s : State) : (palFinish s).mem = s.mem := rfl
@[simp] theorem palFinish_env (s : State) : (palFinish s).env = s.env := rfl

-- palFail
@[simp] theorem palFail_regs (e : Err) (s : State) : (palFail e s).regs = { s.regs with err := s.regs.err ||| e.mask } := rfl
@[simp] theorem palFail_tx (e : Err) (s : State) : (palFail e s).tx = s.tx := rfl
@[simp] theorem palFail_df (e : Err) (s : State) : (palFail e s).df = s.df := rfl
@[simp] theorem palFail_hold (e : Err) (s : State) : (palFail e s).hold = s.hold := rfl
@[simp] theorem palFail_urx (e : Err) (s : State) : (palFail e s).urx = s.urx := rfl
@[simp] theorem palFail_tick (e : Err) (s : State) : (palFail e s).tick = s.tick := rfl
@[simp] theorem palFail_pal (e : Err) (s : State) : (palFail e s).pal = { s.pal with palLen := 0, palOk := false, palDone := true, keys := 0, palN := 0 } := rfl
@[simp] theorem palFail_mem (e : Err) (s : State) : (palFail e s).mem = s.mem := rfl
@[simp] theorem palFail_env (e : Err) (s : State) : (palFail e s).env = s.env := rfl

-- softReset
@[simp] theorem softReset_regs (s : State) : (softReset s).regs = State.reset.regs := rfl
@[simp] theorem softReset_tx (s : State) : (softReset s).tx = State.reset.tx := rfl
@[simp] theorem softReset_df (s : State) : (softReset s).df = State.reset.df := rfl
@[simp] theorem softReset_hold (s : State) : (softReset s).hold = State.reset.hold := rfl
@[simp] theorem softReset_urx (s : State) : (softReset s).urx = State.reset.urx := rfl
@[simp] theorem softReset_tick (s : State) : (softReset s).tick = { State.reset.tick with txOwed := s.tick.txOwed, rxOwed := s.tick.rxOwed } := rfl
@[simp] theorem softReset_pal (s : State) : (softReset s).pal = State.reset.pal := rfl
@[simp] theorem softReset_mem (s : State) : (softReset s).mem = { s.mem with segd := [], segl := [] } := rfl
@[simp] theorem softReset_env (s : State) : (softReset s).env = { s.env with segEpoch := s.env.segEpoch + 1 } := rfl

-- hardReset
@[simp] theorem hardReset_regs (s : State) : (hardReset s).regs = State.reset.regs := rfl
@[simp] theorem hardReset_tx (s : State) : (hardReset s).tx = State.reset.tx := rfl
@[simp] theorem hardReset_df (s : State) : (hardReset s).df = State.reset.df := rfl
@[simp] theorem hardReset_hold (s : State) : (hardReset s).hold = State.reset.hold := rfl
@[simp] theorem hardReset_urx (s : State) : (hardReset s).urx = State.reset.urx := rfl
@[simp] theorem hardReset_tick (s : State) : (hardReset s).tick = State.reset.tick := rfl
@[simp] theorem hardReset_pal (s : State) : (hardReset s).pal = State.reset.pal := rfl
@[simp] theorem hardReset_mem (s : State) : (hardReset s).mem = State.reset.mem := rfl
@[simp] theorem hardReset_env (s : State) : (hardReset s).env = { s.env with epoch := s.env.epoch + 1, segEpoch := s.env.segEpoch + 1 } := rfl

-- clockEdge
@[simp] theorem clockEdge_regs (r : Bool) (s : State) : (clockEdge r s).regs = s.regs := by unfold clockEdge; split <;> rfl
@[simp] theorem clockEdge_tx (r : Bool) (s : State) : (clockEdge r s).tx = s.tx := by unfold clockEdge; split <;> rfl
@[simp] theorem clockEdge_df (r : Bool) (s : State) : (clockEdge r s).df = s.df := by unfold clockEdge; split <;> rfl
@[simp] theorem clockEdge_hold (r : Bool) (s : State) : (clockEdge r s).hold = s.hold := by unfold clockEdge; split <;> rfl
@[simp] theorem clockEdge_urx (r : Bool) (s : State) : (clockEdge r s).urx = s.urx := by unfold clockEdge; split <;> rfl
@[simp] theorem clockEdge_tick (r : Bool) (s : State) : (clockEdge r s).tick = if s.tick.dv = s.tick.div then { s.tick with dv := 0, txOwed := true, rxOwed := some r } else { s.tick with dv := s.tick.dv + 1 } := by unfold clockEdge; split <;> rfl
@[simp] theorem clockEdge_pal (r : Bool) (s : State) : (clockEdge r s).pal = s.pal := by unfold clockEdge; split <;> rfl
@[simp] theorem clockEdge_mem (r : Bool) (s : State) : (clockEdge r s).mem = s.mem := by unfold clockEdge; split <;> rfl
@[simp] theorem clockEdge_env (r : Bool) (s : State) : (clockEdge r s).env = s.env := by unfold clockEdge; split <;> rfl

-- serializerStep
@[simp] theorem serializerStep_regs (s : State) : (serializerStep s).regs = s.regs := by unfold serializerStep; split <;> rfl
@[simp] theorem serializerStep_tx (s : State) : (serializerStep s).tx = if s.tick.txOwed then serializerTick s.tx else s.tx := by unfold serializerStep; split <;> rfl
@[simp] theorem serializerStep_df (s : State) : (serializerStep s).df = s.df := by unfold serializerStep; split <;> rfl
@[simp] theorem serializerStep_hold (s : State) : (serializerStep s).hold = s.hold := by unfold serializerStep; split <;> rfl
@[simp] theorem serializerStep_urx (s : State) : (serializerStep s).urx = s.urx := by unfold serializerStep; split <;> rfl
@[simp] theorem serializerStep_tick (s : State) : (serializerStep s).tick = if s.tick.txOwed then { s.tick with txOwed := false } else s.tick := by unfold serializerStep; split <;> rfl
@[simp] theorem serializerStep_pal (s : State) : (serializerStep s).pal = s.pal := by unfold serializerStep; split <;> rfl
@[simp] theorem serializerStep_mem (s : State) : (serializerStep s).mem = s.mem := by unfold serializerStep; split <;> rfl
@[simp] theorem serializerStep_env (s : State) : (serializerStep s).env = s.env := by unfold serializerStep; split <;> rfl

-- popInput
@[simp] theorem popInput_regs (s : State) : s.popInput.regs = s.regs := by unfold State.popInput; split <;> rfl
@[simp] theorem popInput_tx (s : State) : s.popInput.tx = s.tx := by unfold State.popInput; split <;> rfl
@[simp] theorem popInput_df (s : State) : s.popInput.df = s.df := by unfold State.popInput; split <;> rfl
@[simp] theorem popInput_hold (s : State) : s.popInput.hold = s.hold := by unfold State.popInput; split <;> rfl
@[simp] theorem popInput_urx (s : State) : s.popInput.urx = s.urx := by unfold State.popInput; split <;> rfl
@[simp] theorem popInput_tick (s : State) : s.popInput.tick = s.tick := by unfold State.popInput; split <;> rfl
@[simp] theorem popInput_pal (s : State) : s.popInput.pal = s.pal := by unfold State.popInput; split <;> rfl
@[simp] theorem popInput_mem (s : State) : s.popInput.mem = s.mem := by unfold State.popInput; split <;> rfl
@[simp] theorem popInput_rdata (s : State) : s.popInput.env.rdata = s.env.rdata := by unfold State.popInput; split <;> rfl
@[simp] theorem popInput_epoch (s : State) : s.popInput.env.epoch = s.env.epoch := by unfold State.popInput; split <;> rfl
@[simp] theorem popInput_segEpoch (s : State) : s.popInput.env.segEpoch = s.env.segEpoch := by unfold State.popInput; split <;> rfl

/-- What a buffer's byte is depends on its store and on the index of its free bytes alone. -/
theorem byte_congr {s t : State} {b : Buffer} (hs : t.store b = s.store b)
    (he : t.env.epochOf b = s.env.epochOf b) (i : Nat) : t.byte b i = s.byte b i := by
  unfold State.byte; rw [hs, he]

/-- Equal buffers and equal indices of the free bytes give equal bytes. -/
theorem byte_congr_mem {s t : State} (hm : t.mem = s.mem) (h1 : t.env.epoch = s.env.epoch)
    (h2 : t.env.segEpoch = s.env.segEpoch) (b : Buffer) (i : Nat) : t.byte b i = s.byte b i := by
  cases b <;> simp [State.byte, State.store, Env.epochOf, hm, h1, h2]

theorem bytes_congr {s t : State} {b : Buffer} (h : ∀ i, t.byte b i = s.byte b i) (i n : Nat) :
    t.bytes b i n = s.bytes b i n := by
  simp [State.bytes, h]

@[simp] theorem bytes_length (s : State) (b : Buffer) (i n : Nat) : (s.bytes b i n).length = n := by
  simp [State.bytes]

@[simp] theorem popInput_byte (s : State) (b : Buffer) (i : Nat) : s.popInput.byte b i = s.byte b i :=
  byte_congr_mem (by simp) (by simp) (by simp) b i

@[simp] theorem flagErr_byte (e : Err) (s : State) (b : Buffer) (i : Nat) : (flagErr e s).byte b i = s.byte b i :=
  byte_congr_mem rfl rfl rfl b i

@[simp] theorem setRdata_byte (v : Word) (s : State) (b : Buffer) (i : Nat) : (setRdata v s).byte b i = s.byte b i :=
  byte_congr_mem rfl rfl rfl b i

/-- The store of a buffer after one store is replaced. -/
theorem store_set (s : State) (b c : Buffer) (x : Memory) :
    ({ s with mem := s.mem.set b x } : State).store c = if c = b then x else s.store c := by
  cases b <;> cases c <;> simp [State.store, Buffers.set]

theorem putBytes_store (s : State) (b c : Buffer) (i : Nat) (bs : List Byte) :
    (s.putBytes b i bs).store c = if c = b then Memory.putList (s.store b) i bs else s.store c :=
  store_set s b c _

end Sys2Proof.Machine
end

