-- ==== Sys2Proof/Laws/Memory.lean ====
section
/-! SUPPORT. The byte stores: a read after a write, the canonical form that every operation keeps, and what writing
bytes to a buffer changes. -/

namespace Sys2Proof.Machine

theorem Memory.get_put_same (m : Memory) (i : Nat) (b : Byte) : Memory.get (Memory.put m i b) i = some b := by
  induction m with
  | nil => simp [Memory.put, Memory.get]
  | cons c rest ih =>
    simp only [Memory.put]
    split
    · simp [Memory.get]
    · split
      · simp [Memory.get]
      · rename_i h; simp [Memory.get, h, ih]

theorem Memory.get_put_other (m : Memory) {i j : Nat} (b : Byte) (h : j ≠ i) :
    Memory.get (Memory.put m i b) j = Memory.get m j := by
  induction m with
  | nil => simp [Memory.put, Memory.get, h]
  | cons c rest ih =>
    simp only [Memory.put]
    split
    · simp [Memory.get, h]
    · split
      · rename_i hc; subst hc; simp [Memory.get, h]
      · simp [Memory.get, ih]

theorem Memory.get_put (m : Memory) (i j : Nat) (b : Byte) :
    Memory.get (Memory.put m i b) j = if j = i then some b else Memory.get m j := by
  split
  · rename_i h; subst h; exact Memory.get_put_same m j b
  · rename_i h; exact Memory.get_put_other m b h

/-- The indices of a store after a write are the written one and the ones before. -/
theorem Memory.mem_put {m : Memory} {i : Nat} {b : Byte} {c : Host.Cell} (h : c ∈ Memory.put m i b) :
    c = (i, b) ∨ c ∈ m := by
  induction m with
  | nil => simpa [Memory.put] using h
  | cons d rest ih =>
    simp only [Memory.put] at h
    split at h
    · simpa using h
    · split at h
      · simp only [List.mem_cons] at h ⊢; tauto
      · simp only [List.mem_cons] at h ⊢
        rcases h with h | h
        · tauto
        · rcases ih h with h | h <;> tauto

theorem Memory.wf_put {m : Memory} (h : Memory.wf m) (i : Nat) (b : Byte) : Memory.wf (Memory.put m i b) := by
  induction m with
  | nil => simp [Memory.put, Memory.wf]
  | cons c rest ih =>
    obtain ⟨hc, hr⟩ := List.pairwise_cons.mp h
    simp only [Memory.put]
    split
    · rename_i hlt
      refine List.pairwise_cons.mpr ⟨fun d hd => ?_, h⟩
      rcases List.mem_cons.mp hd with rfl | hd
      · exact hlt
      · exact hlt.trans (hc d hd)
    · split
      · rename_i he; subst he
        exact List.pairwise_cons.mpr ⟨hc, hr⟩
      · rename_i h1 h2
        refine List.pairwise_cons.mpr ⟨fun d hd => ?_, ih hr⟩
        rcases Memory.mem_put hd with rfl | hd
        · show c.1 < i; omega
        · exact hc d hd

theorem Memory.wf_putList {m : Memory} (h : Memory.wf m) (i : Nat) (bs : List Byte) :
    Memory.wf (Memory.putList m i bs) := by
  induction bs generalizing m i with
  | nil => exact h
  | cons b bs ih => exact ih (Memory.wf_put h i b) (i + 1)

theorem Memory.get_putList (m : Memory) (i j : Nat) (bs : List Byte) :
    Memory.get (Memory.putList m i bs) j =
      if i ≤ j ∧ j < i + bs.length then bs[j - i]? else Memory.get m j := by
  induction bs generalizing m i with
  | nil => simp only [Memory.putList, List.length_nil]; rw [if_neg (by omega)]
  | cons b bs ih =>
    simp only [Memory.putList, ih, Memory.get_put, List.length_cons]
    by_cases h : j = i
    · subst h; simp
    · by_cases h1 : i + 1 ≤ j ∧ j < i + 1 + bs.length
      · rw [if_pos h1, if_pos (by omega), show j - i = j - (i + 1) + 1 by omega]; simp
      · rw [if_neg h1, if_neg h, if_neg (by omega)]

/-- Every store of the machine is in canonical form. -/
theorem wf_putBytes {s : State} (h : ∀ c, Memory.wf (s.store c)) (b : Buffer) (i : Nat) (bs : List Byte) (c : Buffer) :
    Memory.wf ((s.putBytes b i bs).store c) := by
  rw [putBytes_store]
  split
  · exact Memory.wf_putList (h b) i bs
  · exact h c

theorem reset_stores_wf : ∀ c, Memory.wf (State.reset.store c) := by
  intro c; cases c <;> simp [State.store, State.reset, Memory.wf]

/-- What each byte of each buffer is after bytes are written to one buffer. -/
theorem putBytes_byte (s : State) (b c : Buffer) (i j : Nat) (bs : List Byte) :
    (s.putBytes b i bs).byte c j =
      if c = b ∧ i ≤ j ∧ j < i + bs.length then (bs[j - i]?).getD 0 else s.byte c j := by
  unfold State.byte
  rw [putBytes_store]
  by_cases hc : c = b
  · subst hc
    simp only [if_true, Memory.get_putList, true_and]
    by_cases h : i ≤ j ∧ j < i + bs.length
    · have hl : j - i < bs.length := by omega
      simp [h, List.getElem?_eq_getElem hl]
    · rw [if_neg h, if_neg h]; rfl
  · rw [if_neg hc, if_neg (fun h => hc h.1)]; rfl

/-- Writing to a buffer leaves every other buffer's bytes. -/
theorem putBytes_byte_other (s : State) {b c : Buffer} (h : c ≠ b) (i j : Nat) (bs : List Byte) :
    (s.putBytes b i bs).byte c j = s.byte c j := by
  rw [putBytes_byte, if_neg (fun hc => h hc.1)]

/-- Bytes written are read back. -/
theorem putBytes_bytes_same (s : State) (b : Buffer) (i : Nat) (bs : List Byte) :
    (s.putBytes b i bs).bytes b i bs.length = bs := by
  apply List.ext_getElem
  · simp
  · intro j h1 h2
    simp [State.bytes, putBytes_byte, h2]

end Sys2Proof.Machine
end

