-- ==== Sys2Proof/Laws/Engine.lean ====
section
/-! SUPPORT. What the engines' steps change and what they leave: the deframer, the sampler, the serializer and the
tick generator, each once. -/

namespace Sys2Proof.Machine

/-- The error bits of `t` are those of `s` and perhaps more, and its other registers are those of `s`. -/
def errGrows (s t : State) : Prop := ∃ m : BitVec 15, t.regs = { s.regs with err := s.regs.err ||| m }

theorem errGrows_refl (s : State) : errGrows s s := ⟨0, by simp⟩

theorem errGrows_of_regs {s t : State} (h : t.regs = s.regs) : errGrows s t := ⟨0, by simp [h]⟩

theorem errGrows_flagErr (e : Err) (s : State) : errGrows s (flagErr e s) := ⟨e.mask, rfl⟩

theorem errGrows_dropFrame (e : Err) (s : State) : errGrows s (dropFrame e s) := ⟨e.mask, rfl⟩

theorem errGrows_trans {s t u : State} (h : errGrows s t) (h' : errGrows t u) : errGrows s u := by
  obtain ⟨m, hm⟩ := h
  obtain ⟨n, hn⟩ := h'
  exact ⟨m ||| n, by rw [hn, hm, BitVec.or_assoc]⟩

/-- What a step of the receive path never touches: the transmit side, the bit clock, the pallet unit, the model's own
fields, and every store but ASM and RXBUF. -/
structure RxFrame (s t : State) : Prop where
  tx : t.tx = s.tx
  tick : t.tick = s.tick
  pal : t.pal = s.pal
  env : t.env = s.env
  store : ∀ b, b ≠ .asm → b ≠ .rxbuf → t.store b = s.store b
  err : errGrows s t

theorem RxFrame.refl (s : State) : RxFrame s s := ⟨rfl, rfl, rfl, rfl, fun _ _ _ => rfl, errGrows_refl s⟩

theorem RxFrame.trans {s t u : State} (h : RxFrame s t) (h' : RxFrame t u) : RxFrame s u :=
  ⟨h'.tx.trans h.tx, h'.tick.trans h.tick, h'.pal.trans h.pal, h'.env.trans h.env,
   fun b h1 h2 => (h'.store b h1 h2).trans (h.store b h1 h2), errGrows_trans h.err h'.err⟩

/-- A receive-path step that changes the deframer, the hold registers and the receiver only. -/
theorem RxFrame.of_eq {s t : State} (htx : t.tx = s.tx) (htick : t.tick = s.tick) (hpal : t.pal = s.pal)
    (henv : t.env = s.env) (hmem : t.mem = s.mem) (herr : errGrows s t) : RxFrame s t :=
  ⟨htx, htick, hpal, henv, fun b _ _ => by cases b <;> simp [State.store, hmem], herr⟩

theorem RxFrame.byte {s t : State} (h : RxFrame s t) {b : Buffer} (h1 : b ≠ .asm) (h2 : b ≠ .rxbuf) (i : Nat) :
    t.byte b i = s.byte b i :=
  byte_congr (h.store b h1 h2) (by rw [h.env]) i

theorem hunt_cases (b : Byte) (s : State) :
    (b = s.regs.frameCfg.sm ∧
      hunt b s = { s with df := { s.df with rxst := .len, rxI := 0, rxLen := 0, rxInstr := 0, rxJ := 0, rxS8 := 0,
                                            rxC32 := s.regs.c32init } }) ∨
    (b ≠ s.regs.frameCfg.sm ∧ hunt b s = s) := by
  unfold hunt; split <;> simp_all

theorem hunt_frame (b : Byte) (s : State) : RxFrame s (hunt b s) ∧ (hunt b s).hold = s.hold
    ∧ (hunt b s).urx = s.urx ∧ (hunt b s).mem = s.mem ∧ (hunt b s).regs = s.regs := by
  rcases hunt_cases b s with ⟨_, h⟩ | ⟨_, h⟩ <;> rw [h]
  · exact ⟨.of_eq rfl rfl rfl rfl rfl (errGrows_of_regs rfl), rfl, rfl, rfl, rfl⟩
  · exact ⟨.refl s, rfl, rfl, rfl, rfl⟩

theorem dropFrame_frame (e : Err) (s : State) : RxFrame s (dropFrame e s) ∧ (dropFrame e s).urx = s.urx
    ∧ (dropFrame e s).mem = s.mem :=
  ⟨.of_eq rfl rfl rfl rfl rfl (errGrows_dropFrame e s), rfl, rfl⟩

theorem drop_frame (e : Err) (b : Byte) (s : State) : RxFrame s (drop e b s) ∧ (drop e b s).urx = s.urx
    ∧ (drop e b s).mem = s.mem
    ∧ (drop e b s).hold = { s.hold with cntBadframe := satInc16 s.hold.cntBadframe } := by
  obtain ⟨h1, h2, h3, h4, _⟩ := hunt_frame b (dropFrame e s)
  obtain ⟨h5, h6, h7⟩ := dropFrame_frame e s
  exact ⟨h5.trans h1, h3.trans h6, h4.trans h7, h2⟩

theorem accept_cases (s : State) :
    (s.hold.rxFull = true ∧ accept s =
      { flagErr .rxovr s with hold := { s.hold with cntOverrun := satInc16 s.hold.cntOverrun } }) ∨
    (s.hold.rxFull = false ∧ accept s =
      { s.putBytes .rxbuf 0 (s.bytes .asm 0 s.df.rxLen.toNat) with
        hold := { s.hold with rxLen := s.df.rxLen.toNat, rxInstr := s.df.rxInstr, rxFull := true } }) := by
  unfold accept; split <;> simp_all

theorem accept_frame (s : State) : RxFrame s (accept s) ∧ (accept s).urx = s.urx := by
  rcases accept_cases s with ⟨_, h⟩ | ⟨_, h⟩ <;> rw [h]
  · exact ⟨.of_eq rfl rfl rfl rfl rfl (errGrows_flagErr .rxovr s), rfl⟩
  · refine ⟨⟨rfl, rfl, rfl, rfl, fun b _ h2 => ?_, errGrows_of_regs rfl⟩, rfl⟩
    exact (putBytes_store s .rxbuf b 0 _).trans (if_neg h2)

theorem toHunt_frame (s : State) : RxFrame s (toHunt s) ∧ (toHunt s).urx = s.urx :=
  ⟨.of_eq rfl rfl rfl rfl rfl (errGrows_of_regs rfl), rfl⟩

/-- The deframer changes only itself, the hold registers, ASM, RXBUF and ERR. -/
theorem deframe_frame (b : Byte) (s : State) : RxFrame s (deframe b s) ∧ (deframe b s).urx = s.urx := by
  unfold deframe
  split
  · exact ⟨(hunt_frame b s).1, (hunt_frame b s).2.2.1⟩
  · unfold stepLen
    dsimp only
    split
    · split
      · refine ⟨RxFrame.trans ?_ (drop_frame _ b _).1, (drop_frame _ b _).2.1⟩
        exact .of_eq rfl rfl rfl rfl rfl (errGrows_of_regs rfl)
      · exact ⟨.of_eq rfl rfl rfl rfl rfl (errGrows_of_regs rfl), rfl⟩
    · exact ⟨.of_eq rfl rfl rfl rfl rfl (errGrows_of_regs rfl), rfl⟩
  · unfold stepInstr
    dsimp only
    split <;> exact ⟨.of_eq rfl rfl rfl rfl rfl (errGrows_of_regs rfl), rfl⟩
  · refine ⟨⟨rfl, rfl, rfl, rfl, fun c h1 _ => ?_, errGrows_of_regs rfl⟩, rfl⟩
    exact (putBytes_store s .asm c s.df.rxJ [b]).trans (if_neg h1)
  · unfold stepChk
    split <;> exact ⟨.of_eq rfl rfl rfl rfl rfl (errGrows_of_regs rfl), rfl⟩
  · unfold stepEnd
    split
    · exact ⟨(drop_frame _ b s).1, (drop_frame _ b s).2.1⟩
    · split
      · exact ⟨(drop_frame _ b s).1, (drop_frame _ b s).2.1⟩
      · exact ⟨(accept_frame s).1.trans (toHunt_frame _).1, (accept_frame s).2⟩

theorem deframeFramingError_frame (s : State) :
    RxFrame s (deframeFramingError s) ∧ (deframeFramingError s).urx = s.urx
      ∧ (deframeFramingError s).mem = s.mem := by
  unfold deframeFramingError
  split
  · exact ⟨.refl s, rfl, rfl⟩
  · exact dropFrame_frame .rxfrm s

theorem pushRaw_frame (b : Byte) (s : State) : RxFrame s (pushRaw b s) ∧ (pushRaw b s).mem = s.mem
    ∧ (pushRaw b s).df = s.df ∧ (pushRaw b s).hold = s.hold := by
  unfold pushRaw
  split
  · exact ⟨.of_eq rfl rfl rfl rfl rfl (errGrows_of_regs rfl), rfl, rfl, rfl⟩
  · exact ⟨.of_eq rfl rfl rfl rfl rfl (errGrows_flagErr .rawovf s), rfl, rfl, rfl⟩

theorem receiveByte_frame (b : Byte) (s : State) : RxFrame s (receiveByte b s) := by
  have h0 : RxFrame s { s with urx := { s.urx with rxb := satInc64 s.urx.rxb } } :=
    .of_eq rfl rfl rfl rfl rfl (errGrows_of_regs rfl)
  unfold receiveByte deliver
  split
  · exact h0.trans (pushRaw_frame b _).1
  · exact h0.trans (deframe_frame b _).1

theorem receiveFramingError_frame (s : State) : RxFrame s (receiveFramingError s) := by
  have h0 : RxFrame s (flagErr .uartfe s) := .of_eq rfl rfl rfl rfl rfl (errGrows_flagErr .uartfe s)
  unfold receiveFramingError
  split
  · exact h0
  · exact h0.trans (deframeFramingError_frame _).1

theorem setUrxst_frame (x : UrxState) (s : State) : RxFrame s (setUrxst x s) :=
  .of_eq rfl rfl rfl rfl rfl (errGrows_of_regs rfl)

/-- What one tick of the sampler can do: change the sampler alone, complete a good character, or complete one with a
framing error (44_serial.md R310 to R315). -/
theorem samplerTick_cases (r : Bool) (s : State) :
    (∃ u : Receiver, u.rawFifo = s.urx.rawFifo ∧ u.rxb = s.urx.rxb ∧ u.rxbShadow = s.urx.rxbShadow ∧
      samplerTick r s = { s with urx := u }) ∨
    (s.rxEn = true ∧ s.urx.urxst = .stop ∧ s.urx.urxCnt + 1 = Config.ovs ∧ r = true ∧
      samplerTick r s = setUrxst .idle (receiveByte s.urx.urxSh
        { s with urx := { s.urx with urxCnt := s.urx.urxCnt + 1 } })) ∨
    (s.rxEn = true ∧ s.urx.urxst = .stop ∧ s.urx.urxCnt + 1 = Config.ovs ∧ r = false ∧
      samplerTick r s = setUrxst .brk (receiveFramingError
        { s with urx := { s.urx with urxCnt := s.urx.urxCnt + 1 } })) := by
  unfold samplerTick
  split
  · left; refine ⟨_, ?_, ?_, ?_, rfl⟩ <;> rfl
  · rename_i hen
    split
    · left; split
      · exact ⟨s.urx, rfl, rfl, rfl, rfl⟩
      · refine ⟨_, ?_, ?_, ?_, rfl⟩ <;> rfl
    · left; split
      · split <;> (refine ⟨_, ?_, ?_, ?_, rfl⟩ <;> rfl)
      · refine ⟨_, ?_, ?_, ?_, rfl⟩ <;> rfl
    · left; split <;> (refine ⟨_, ?_, ?_, ?_, rfl⟩ <;> rfl)
    · rename_i hst
      split
      · rename_i hc
        cases r
        · exact .inr (.inr ⟨by simpa using hen, hst, hc, rfl, rfl⟩)
        · exact .inr (.inl ⟨by simpa using hen, hst, hc, rfl, rfl⟩)
      · left; refine ⟨_, ?_, ?_, ?_, rfl⟩ <;> rfl
    · left; split
      · refine ⟨_, ?_, ?_, ?_, rfl⟩ <;> rfl
      · exact ⟨s.urx, rfl, rfl, rfl, rfl⟩

theorem samplerTick_frame (r : Bool) (s : State) : RxFrame s (samplerTick r s) := by
  have h0 (u : Receiver) : RxFrame s { s with urx := u } := .of_eq rfl rfl rfl rfl rfl (errGrows_of_regs rfl)
  rcases samplerTick_cases r s with ⟨u, -, -, -, h⟩ | ⟨-, -, -, -, h⟩ | ⟨-, -, -, -, h⟩ <;> rw [h]
  · exact h0 u
  · exact ((h0 _).trans (receiveByte_frame _ _)).trans (setUrxst_frame _ _)
  · exact ((h0 _).trans (receiveFramingError_frame _)).trans (setUrxst_frame _ _)

/-- The sampler's step is a tick when it is owed one, and nothing when it is not. -/
theorem samplerStep_cases (s : State) :
    (∃ r, s.tick.rxOwed = some r ∧
      samplerStep s = samplerTick r { s with tick := { s.tick with rxOwed := none } }) ∨
    (s.tick.rxOwed = none ∧ samplerStep s = s) := by
  unfold samplerStep
  split
  · rename_i r h; exact .inl ⟨r, h, rfl⟩
  · rename_i h; exact .inr ⟨h, rfl⟩

/-- The serializer's step is a tick when it is owed one, and nothing when it is not. -/
theorem serializerStep_cases (s : State) :
    (s.tick.txOwed = true ∧
      serializerStep s = { s with tx := serializerTick s.tx, tick := { s.tick with txOwed := false } }) ∨
    (s.tick.txOwed = false ∧ serializerStep s = s) := by
  unfold serializerStep
  split <;> simp_all

/-- A clock edge is an engine's step when that engine is still owed a tick, and the tick generator's when not. -/
theorem clockStep_cases (r : Bool) (s : State) :
    clockStep r s = serializerStep s ∨ clockStep r s = samplerStep s ∨ clockStep r s = clockEdge r s.popInput := by
  unfold clockStep
  split
  · exact .inl rfl
  · split
    · exact .inr (.inl rfl)
    · exact .inr (.inr rfl)

/-- What a step can be: a host access, an engine's step, a clock edge, or a reset. -/
theorem step_cases {s t : State} (h : step s = .next t) :
    (∃ acc, s.nextInput = .host acc ∧ exec (decode acc) s.popInput = .next t) ∨
    (t = serializerStep s ∨ t = serializerStep s.popInput) ∨
    (t = samplerStep s ∨ t = samplerStep s.popInput) ∨
    (∃ r, t = clockEdge r s.popInput) ∨
    (s.nextInput = .rstN ∧ t = hardReset s.popInput) := by
  unfold step at h
  split at h
  · rename_i acc ha; exact .inl ⟨acc, ha, h⟩
  · rename_i r _
    injection h with h
    rcases clockStep_cases r s with hc | hc | hc
    · exact .inr (.inl (.inl (h ▸ hc)))
    · exact .inr (.inr (.inl (.inl (h ▸ hc))))
    · exact .inr (.inr (.inr (.inl ⟨r, h ▸ hc⟩)))
  · injection h with h; exact .inr (.inl (.inr h.symm))
  · injection h with h; exact .inr (.inr (.inl (.inr h.symm)))
  · rename_i hr; injection h with h; exact .inr (.inr (.inr (.inr ⟨hr, h.symm⟩)))

end Sys2Proof.Machine
end

