-- ==== Sys2Proof/Laws/Commands.lean ====
section
/-! SUPPORT. What each instruction's meaning can answer, once: the checks it may fail and the effect it has when it
passes them. -/

namespace Sys2Proof.Machine

@[simp] theorem refuse_eq (e : Err) (s : State) : refuse e s = .next (flagErr e s) := rfl

theorem next_inj {s t : State} (h : (.next s : Result) = .next t) : s = t := by injection h

/-- An accepted BUSY check, or the refusal. -/
theorem execTxbClr_cases (s : State) :
    (s.tx.txBusy = true ∧ execTxbClr s = .next (flagErr .busy s)) ∨
    (s.tx.txBusy = false ∧ execTxbClr s = .next { s with tx := { s.tx with txLen := 0 } }) := by
  unfold execTxbClr; split <;> simp_all

theorem execTxFrame_cases (s : State) :
    (∃ e, (e = .busy ∨ e = .mode ∨ e = .arg) ∧ execTxFrame s = .next (flagErr e s)) ∨
    (s.tx.txBusy = false ∧ s.txEn = true ∧ s.passthru = false ∧
      (s.regs.frameCfg.lw = true ∨ s.tx.txLen ≤ 255) ∧
      execTxFrame s = .next (startTx
        (frameOf s.regs.frameCfg s.regs.c32init s.regs.txInstr (s.bytes .txbuf 0 s.tx.txLen)) s)) := by
  unfold execTxFrame
  split
  · exact .inl ⟨.busy, by simp, rfl⟩
  · split
    · exact .inl ⟨.mode, by simp, rfl⟩
    · split
      · exact .inl ⟨.arg, by simp, rfl⟩
      · right
        rename_i h1 h2 h3
        simp only [Bool.not_eq_true, Bool.or_eq_false_iff, Bool.not_eq_false'] at h1 h2
        refine ⟨h1, h2.1, h2.2, ?_, rfl⟩
        cases hl : s.regs.frameCfg.lw <;> simp [hl] at h3 ⊢
        exact h3

theorem execTxRaw_cases (s : State) :
    (∃ e, (e = .busy ∨ e = .mode) ∧ execTxRaw s = .next (flagErr e s)) ∨
    (s.tx.txBusy = false ∧ s.txEn = true ∧ s.passthru = true ∧ s.tx.txLen = 0 ∧
      execTxRaw s = .next { s with tx := { s.tx with txDone := true } }) ∨
    (s.tx.txBusy = false ∧ s.txEn = true ∧ s.passthru = true ∧ s.tx.txLen ≠ 0 ∧
      execTxRaw s = .next (startTx (s.bytes .txbuf 0 s.tx.txLen) s)) := by
  unfold execTxRaw
  split
  · exact .inl ⟨.busy, by simp, rfl⟩
  · split
    · exact .inl ⟨.mode, by simp, rfl⟩
    · split <;> right
      · left; simp_all
      · right; simp_all

theorem execUcBuild_cases (s : State) :
    (∃ e, (e = .busy ∨ e = .arg) ∧ execUcBuild s = .next (flagErr e s)) ∨
    (s.tx.txBusy = false ∧ s.tx.txLen ≤ 7 ∧
      execUcBuild s = .next { s.putBytes .txbuf s.tx.txLen
          (sum8 0 (s.bytes .txbuf 0 s.tx.txLen) :: List.replicate (7 - s.tx.txLen) 0) with
        tx := { s.tx with txLen := 8 } }) := by
  unfold execUcBuild
  split
  · exact .inl ⟨.busy, by simp, rfl⟩
  · split
    · exact .inl ⟨.arg, by simp, rfl⟩
    · right
      simp_all

theorem execUcCheck_cases (l : BitVec 3) (s : State) :
    (s.pal.canLen ≤ l.toNat ∧ execUcCheck l s = .next (flagErr .arg s)) ∨
    (l.toNat < s.pal.canLen ∧ execUcCheck l s = .next { s with regs := { s.regs with
      ucOk := sum8 0 (s.bytes .canbuf 0 l.toNat) == s.byte .canbuf l.toNat } }) := by
  unfold execUcCheck
  split
  · rename_i h; exact .inl ⟨h, rfl⟩
  · rename_i h; exact .inr ⟨by omega, rfl⟩

theorem execPalTx_cases (s : State) :
    (Config.palMaxData < s.tx.txLen ∧ execPalTx s = .next (flagErr .arg s)) ∨
    (s.tx.txLen ≤ Config.palMaxData ∧
      ∃ buf, buf = palletBuffer s.regs.c32init (s.bytes .txbuf 0 s.tx.txLen) ∧
        execPalTx s = .next { s.putBytes .segbuf 0 (segSlots buf) with
          pal := { s.pal with segN := segCount buf.length,
                              segLastLen := buf.length - 7 * (segCount buf.length - 1) } }) := by
  unfold execPalTx
  split
  · rename_i h; exact .inl ⟨h, rfl⟩
  · rename_i h; exact .inr ⟨by omega, _, rfl, rfl⟩

theorem palComplete_cases (s : State) :
    (4 ≤ s.reassembled.length ∧ crc32 s.regs.c32init s.reassembled = 0 ∧
      palComplete s = palFinish
        { s.putBytes .palbuf 0 (s.reassembled.take (s.reassembled.length - 4)) with
          pal := { s.pal with palLen := s.reassembled.length - 4, palOk := true } }) ∨
    (¬ (4 ≤ s.reassembled.length ∧ crc32 s.regs.c32init s.reassembled = 0) ∧
      palComplete s = palFail .palcrc s) := by
  unfold palComplete
  dsimp only
  split
  · rename_i h; exact .inl ⟨h.1, h.2, rfl⟩
  · rename_i h; exact .inr ⟨h, rfl⟩

theorem palTake_cases (k : Nat) (s : State) :
    ((palBuffer k s).palAll = true ∧ palTake k s = palComplete (palBuffer k s)) ∨
    ((palBuffer k s).palAll = false ∧ palTake k s = palBuffer k s) := by
  unfold palTake; split <;> simp_all

/-- What PAL_SEG can answer: a refusal, a conflict of PAL_N, or a segment taken, with PAL_N latched or not. -/
theorem execPalSeg_cases (s : State) :
    (s.pal.canLen = 0 ∧ execPalSeg s = .next (flagErr .arg s)) ∨
    (∃ k, s.pal.canLen ≠ 0 ∧ k = ((s.byte .canbuf 0).extractLsb' 0 7).toNat ∧
      ((s.pal.palN = 0 ∧ (s.byte .canbuf 0).getLsbD 7 = true ∧
          execPalSeg s = .next (palTake k { s with pal := { s.pal with palN := k + 1 } })) ∨
       (s.pal.palN ≠ 0 ∧ s.pal.palN ≠ k + 1 ∧ (s.byte .canbuf 0).getLsbD 7 = true ∧
          execPalSeg s = .next (palFail .palhdr s)) ∨
       (((s.byte .canbuf 0).getLsbD 7 = true → s.pal.palN = k + 1) ∧
          execPalSeg s = .next (palTake k s)))) := by
  unfold execPalSeg
  dsimp only
  split
  · rename_i h; exact .inl ⟨h, rfl⟩
  · rename_i h
    refine .inr ⟨_, h, rfl, ?_⟩
    split
    · rename_i hf
      split
      · rename_i hn; exact .inl ⟨hn, hf, rfl⟩
      · rename_i hn
        split
        · rename_i hk; exact .inr (.inl ⟨hn, hk, hf, rfl⟩)
        · rename_i hk; exact .inr (.inr ⟨fun _ => not_not.mp hk, rfl⟩)
    · rename_i hf; exact .inr (.inr ⟨fun h => absurd h hf, rfl⟩)

theorem execPalAbort_cases (s : State) :
    (s.pal.keys = 0 ∧ execPalAbort s = .next s) ∨
    (s.pal.keys ≠ 0 ∧ execPalAbort s = .next (palFail .palabt s)) := by
  unfold execPalAbort; split <;> simp_all

/-- What a read can answer (45_control.md R341). -/
theorem execBusRead_cases (a : Addr) (s : State) :
    (target a = .unmapped ∧ execBusRead a s = .next (setRdata 0 (flagErr .badaddr s))) ∨
    (∃ b i, target a = .window b i ∧ execBusRead a s = .next (setRdata ((s.byte b i).setWidth 32) s)) ∨
    (∃ r, target a = .reg r ∧ execBusRead a s = .next (setRdata (readValue r s) (readEffect r s))) := by
  unfold execBusRead
  split
  · rename_i h; exact .inl ⟨h, rfl⟩
  · rename_i b i h; exact .inr (.inl ⟨b, i, h, rfl⟩)
  · rename_i r h; exact .inr (.inr ⟨r, h, rfl⟩)

/-- What reading a register can do: nothing, pop the raw FIFO, or latch a counter's high half (20_memory.md R80). -/
theorem readEffect_cases (r : Reg) (s : State) :
    readEffect r s = s ∨
    (r = .rawdata ∧ readEffect r s = { s with urx := { s.urx with rawFifo := s.urx.rawFifo.tail } }) ∨
    (r = .rxbytesLo ∧
      readEffect r s = { s with urx := { s.urx with rxbShadow := s.urx.rxb.extractLsb' 32 32 } }) ∨
    (r = .txbytesLo ∧
      readEffect r s = { s with tx := { s.tx with txbShadow := s.tx.txb.extractLsb' 32 32 } }) := by
  cases r <;> simp [readEffect]

/-- What a write to CMD can answer: BADOP, or what the command it names answers. -/
theorem runCommand_cases (v : Word) (s : State) :
    (runCommand v s = .next (flagErr .badop s)) ∨
    (∃ i, decodeCmd v = .ok i ∧ (encodeCmd i).isSome = true ∧ runCommand v s = exec i s) := by
  cases h : decodeCmd v with
  | error e => left; simp [runCommand, h]
  | ok i =>
    have hi := decodeCmd_isCommand h
    right
    refine ⟨i, rfl, hi, ?_⟩
    cases i <;> first | (simp [encodeCmd] at hi; done) | simp [runCommand, h, exec]

/-- What a write can answer: what the register's own write answers, a command's answer, or a bit of ERR. -/
theorem execBusWrite_cases (a : Addr) (v : Word) (s : State) :
    (target a = .unmapped ∧ execBusWrite a v s = .next (flagErr .badaddr s)) ∨
    (∃ b i, target a = .window b i ∧ execBusWrite a v s = .next s) ∨
    (target a = .reg .cmd ∧ execBusWrite a v s = .next (flagErr .badop s)) ∨
    (∃ i, target a = .reg .cmd ∧ decodeCmd v = .ok i ∧ (encodeCmd i).isSome = true ∧ execBusWrite a v s = exec i s) ∨
    (∃ r, r ≠ .cmd ∧ target a = .reg r ∧ execBusWrite a v s = writeReg r v s) := by
  unfold execBusWrite
  split
  · rename_i h; exact .inl ⟨h, rfl⟩
  · rename_i b i h; exact .inr (.inl ⟨b, i, h, rfl⟩)
  · rename_i r h
    right; right
    by_cases hr : r = .cmd
    · subst hr
      rcases runCommand_cases v s with hc | ⟨i, hd, hi, hc⟩
      · exact .inl ⟨h, hc⟩
      · exact .inr (.inl ⟨i, h, hd, hi, hc⟩)
    · exact .inr (.inr ⟨r, hr, h, rfl⟩)

/-- A property that every command, every register write other than CMD's, every read and the two error bits of the
bus keep is kept by every instruction. -/
theorem exec_keeps {P : State → Prop} {s : State}
    (hcmd : ∀ i t, (encodeCmd i).isSome = true → exec i s = .next t → P t)
    (hread : ∀ a t, exec (.busRead a) s = .next t → P t)
    (hwrite : ∀ r v t, r ≠ .cmd → writeReg r v s = .next t → P t)
    (hself : P s) (herr : ∀ e, P (flagErr e s))
    (i : Instr) (t : State) (h : exec i s = .next t) : P t := by
  cases hi : (encodeCmd i).isSome with
  | true => exact hcmd i t hi h
  | false =>
    cases i <;> simp [encodeCmd] at hi
    · exact hread _ t h
    · rename_i a v
      have h' : execBusWrite a v s = .next t := h
      rcases execBusWrite_cases a v s with ⟨-, hc⟩ | ⟨_, _, -, hc⟩ | ⟨-, hc⟩ | ⟨j, -, -, hj, hc⟩ | ⟨r, hr, -, hc⟩ <;>
        rw [hc] at h'
      · exact next_inj h' ▸ herr _
      · exact next_inj h' ▸ hself
      · exact next_inj h' ▸ herr _
      · exact hcmd j t hj h'
      · exact hwrite r v t hr h'

end Sys2Proof.Machine
end

