-- ==== Sys2Proof/Laws/Frames.lean ====
section
/-! SUPPORT. The frames of the instructions: what a command, a read and a register write leave as it was, and the
shape of a proof that every step keeps a property. -/

namespace Sys2Proof.Machine

@[simp] theorem popInput_store (s : State) (b : Buffer) : s.popInput.store b = s.store b := by
  cases b <;> simp [State.store]

/-- What no command but SRST changes: the deframer, the sampler and raw FIFO, the bit clock, the model's own fields,
and the configuration registers. -/
structure CmdFrame (s t : State) : Prop where
  df : t.df = s.df
  urx : t.urx = s.urx
  tick : t.tick = s.tick
  env : t.env = s.env
  ctrl : t.regs.ctrl = s.regs.ctrl
  irqEn : t.regs.irqEn = s.regs.irqEn
  frameCfg : t.regs.frameCfg = s.regs.frameCfg
  c32init : t.regs.c32init = s.regs.c32init
  txInstr : t.regs.txInstr = s.regs.txInstr
  err : ∃ m, t.regs.err = s.regs.err ||| m

theorem CmdFrame.of_eq {s t : State} (hd : t.df = s.df) (hu : t.urx = s.urx) (hk : t.tick = s.tick) (he : t.env = s.env)
    (hr : errGrows s t) : CmdFrame s t := by
  obtain ⟨m, hm⟩ := hr
  exact ⟨hd, hu, hk, he, by rw [hm], by rw [hm], by rw [hm], by rw [hm], by rw [hm], ⟨m, by rw [hm]⟩⟩

theorem CmdFrame.refl (s : State) : CmdFrame s s := .of_eq rfl rfl rfl rfl (errGrows_refl s)

theorem CmdFrame.flag (e : Err) (s : State) : CmdFrame s (flagErr e s) := .of_eq rfl rfl rfl rfl (errGrows_flagErr e s)

/-- A reassembly step changes the pallet unit, PALBUF, SEGD, SEGL and ERR only. -/
structure PalFrame (s t : State) : Prop where
  tx : t.tx = s.tx
  df : t.df = s.df
  hold : t.hold = s.hold
  urx : t.urx = s.urx
  tick : t.tick = s.tick
  env : t.env = s.env
  store : ∀ b, b ≠ .palbuf → b ≠ .segd → b ≠ .segl → t.store b = s.store b
  canLen : t.pal.canLen = s.pal.canLen
  segN : t.pal.segN = s.pal.segN
  segLastLen : t.pal.segLastLen = s.pal.segLastLen
  err : errGrows s t

theorem PalFrame.refl (s : State) : PalFrame s s :=
  ⟨rfl, rfl, rfl, rfl, rfl, rfl, fun _ _ _ _ => rfl, rfl, rfl, rfl, errGrows_refl s⟩

theorem PalFrame.trans {s t u : State} (h : PalFrame s t) (h' : PalFrame t u) : PalFrame s u :=
  ⟨h'.tx.trans h.tx, h'.df.trans h.df, h'.hold.trans h.hold, h'.urx.trans h.urx, h'.tick.trans h.tick,
   h'.env.trans h.env, fun b h1 h2 h3 => (h'.store b h1 h2 h3).trans (h.store b h1 h2 h3),
   h'.canLen.trans h.canLen, h'.segN.trans h.segN, h'.segLastLen.trans h.segLastLen, errGrows_trans h.err h'.err⟩

theorem palFail_frame (e : Err) (s : State) : PalFrame s (palFail e s) :=
  ⟨rfl, rfl, rfl, rfl, rfl, rfl, fun b _ _ _ => by cases b <;> rfl, rfl, rfl, rfl, errGrows_flagErr e s⟩

/-- The stores after a segment is buffered (43_ucan_pallet.md R250, R259). -/
theorem palBuffer_store (k : Nat) (s : State) (b : Buffer) :
    (palBuffer k s).store b =
      if b = .segd then Memory.putList s.mem.segd (8 * k) (s.bytes .canbuf 1 (s.pal.canLen - 1))
      else if b = .segl then Memory.put s.mem.segl k (BitVec.ofNat 8 (s.pal.canLen - 1))
      else s.store b := by
  cases b <;> rfl

theorem palBuffer_pal (k : Nat) (s : State) :
    (palBuffer k s).pal = { s.pal with keys := s.pal.keys ||| ((1 : BitVec 128) <<< k) } := rfl

theorem palBuffer_frame (k : Nat) (s : State) : PalFrame s (palBuffer k s) := by
  refine ⟨rfl, rfl, rfl, rfl, rfl, rfl, fun b _ h2 h3 => ?_, rfl, rfl, rfl, errGrows_of_regs rfl⟩
  rw [palBuffer_store, if_neg h2, if_neg h3]

theorem palComplete_frame (s : State) : PalFrame s (palComplete s) := by
  rcases palComplete_cases s with ⟨-, -, h⟩ | ⟨-, h⟩ <;> rw [h]
  · refine ⟨rfl, rfl, rfl, rfl, rfl, rfl, fun b h1 _ _ => ?_, rfl, rfl, rfl, errGrows_of_regs rfl⟩
    exact (putBytes_store s .palbuf b 0 _).trans (if_neg h1)
  · exact palFail_frame .palcrc s

theorem palTake_frame (k : Nat) (s : State) : PalFrame s (palTake k s) := by
  rcases palTake_cases k s with ⟨-, h⟩ | ⟨-, h⟩ <;> rw [h]
  · exact (palBuffer_frame k s).trans (palComplete_frame _)
  · exact palBuffer_frame k s

theorem setPalN_frame (n : Nat) (s : State) : PalFrame s { s with pal := { s.pal with palN := n } } :=
  ⟨rfl, rfl, rfl, rfl, rfl, rfl, fun b _ _ _ => by cases b <;> rfl, rfl, rfl, rfl, errGrows_of_regs rfl⟩

/-- PAL_SEG changes the pallet unit, PALBUF, SEGD, SEGL and ERR only. -/
theorem execPalSeg_frame {s t : State} (h : execPalSeg s = .next t) : PalFrame s t := by
  rcases execPalSeg_cases s with ⟨-, hc⟩ | ⟨k, -, -, ⟨-, -, hc⟩ | ⟨-, -, -, hc⟩ | ⟨-, hc⟩⟩ <;> rw [hc] at h <;>
    rw [← next_inj h]
  · exact ⟨rfl, rfl, rfl, rfl, rfl, rfl, fun b _ _ _ => by cases b <;> rfl, rfl, rfl, rfl, errGrows_flagErr _ s⟩
  · exact (setPalN_frame (k + 1) s).trans (palTake_frame k _)
  · exact palFail_frame _ s
  · exact palTake_frame k s

theorem execPalAbort_frame {s t : State} (h : execPalAbort s = .next t) : PalFrame s t := by
  rcases execPalAbort_cases s with ⟨-, hc⟩ | ⟨-, hc⟩ <;> rw [hc] at h <;> rw [← next_inj h]
  · exact .refl s
  · exact palFail_frame _ s

/-- A command other than SRST keeps the receive engines, the bit clock and the configuration. -/
theorem exec_command_frame {i : Instr} {s t : State} (hi : (encodeCmd i).isSome = true) (hs : i ≠ .srst)
    (h : exec i s = .next t) : CmdFrame s t := by
  cases i <;> simp [encodeCmd] at hi hs <;> simp only [exec] at h
  · exact next_inj h ▸ .refl s
  · exact next_inj h ▸ ⟨rfl, rfl, rfl, rfl, rfl, rfl, rfl, rfl, rfl, 0, by simp⟩
  · exact next_inj h ▸ ⟨rfl, rfl, rfl, rfl, rfl, rfl, rfl, rfl, rfl, 0, by simp⟩
  · exact next_inj h ▸ ⟨rfl, rfl, rfl, rfl, rfl, rfl, rfl, rfl, rfl, 0, by simp⟩
  · exact next_inj h ▸ ⟨rfl, rfl, rfl, rfl, rfl, rfl, rfl, rfl, rfl, 0, by simp⟩
  · rcases execTxbClr_cases s with ⟨-, hc⟩ | ⟨-, hc⟩ <;> rw [hc] at h <;> rw [← next_inj h]
    · exact .flag _ s
    · exact .of_eq rfl rfl rfl rfl (errGrows_of_regs rfl)
  · exact next_inj h ▸ .of_eq rfl rfl rfl rfl (errGrows_of_regs rfl)
  · exact next_inj h ▸ .of_eq rfl rfl rfl rfl (errGrows_of_regs rfl)
  · rcases execTxFrame_cases s with ⟨_, -, hc⟩ | ⟨-, -, -, -, hc⟩ <;> rw [hc] at h <;> rw [← next_inj h]
    · exact .flag _ s
    · exact .of_eq rfl rfl rfl rfl (errGrows_of_regs rfl)
  · rcases execTxRaw_cases s with ⟨_, -, hc⟩ | ⟨-, -, -, -, hc⟩ | ⟨-, -, -, -, hc⟩ <;> rw [hc] at h <;>
      rw [← next_inj h]
    · exact .flag _ s
    · exact .of_eq rfl rfl rfl rfl (errGrows_of_regs rfl)
    · exact .of_eq rfl rfl rfl rfl (errGrows_of_regs rfl)
  · rcases execUcBuild_cases s with ⟨_, -, hc⟩ | ⟨-, -, hc⟩ <;> rw [hc] at h <;> rw [← next_inj h]
    · exact .flag _ s
    · exact .of_eq rfl rfl rfl rfl (errGrows_of_regs rfl)
  · rename_i l
    rcases execUcCheck_cases l s with ⟨-, hc⟩ | ⟨-, hc⟩ <;> rw [hc] at h <;> rw [← next_inj h]
    · exact .flag _ s
    · exact ⟨rfl, rfl, rfl, rfl, rfl, rfl, rfl, rfl, rfl, 0, by simp⟩
  · rcases execPalTx_cases s with ⟨-, hc⟩ | ⟨-, _, -, hc⟩ <;> rw [hc] at h <;> rw [← next_inj h]
    · exact .flag _ s
    · exact .of_eq rfl rfl rfl rfl (errGrows_of_regs rfl)
  · have hf := execPalSeg_frame h
    exact .of_eq hf.df hf.urx hf.tick hf.env hf.err
  · have hf := execPalAbort_frame h
    exact .of_eq hf.df hf.urx hf.tick hf.env hf.err

/-- A read changes what the host read, and perhaps the raw FIFO, a counter's shadow or ERR: never a store, the
deframer, the hold registers, the bit clock or the pallet unit. -/
theorem execBusRead_frame {a : Addr} {s t : State} (h : execBusRead a s = .next t) :
    t.df = s.df ∧ t.hold = s.hold ∧ t.tick = s.tick ∧ t.pal = s.pal ∧ t.mem = s.mem
      ∧ (∃ v, t.env = { s.env with rdata := v })
      ∧ (∃ f v, (f = s.urx.rawFifo ∨ f = s.urx.rawFifo.tail) ∧ t.urx = { s.urx with rawFifo := f, rxbShadow := v })
      ∧ (∃ v, t.tx = { s.tx with txbShadow := v }) ∧ errGrows s t := by
  rcases execBusRead_cases a s with ⟨-, hc⟩ | ⟨b, j, -, hc⟩ | ⟨r, -, hc⟩ <;> rw [hc] at h <;> rw [← next_inj h]
  · exact ⟨rfl, rfl, rfl, rfl, rfl, ⟨_, rfl⟩, ⟨_, s.urx.rxbShadow, .inl rfl, rfl⟩, ⟨s.tx.txbShadow, rfl⟩,
      errGrows_flagErr _ s⟩
  · exact ⟨rfl, rfl, rfl, rfl, rfl, ⟨_, rfl⟩, ⟨_, s.urx.rxbShadow, .inl rfl, rfl⟩, ⟨s.tx.txbShadow, rfl⟩,
      errGrows_of_regs rfl⟩
  · rcases readEffect_cases r s with h' | ⟨-, h'⟩ | ⟨-, h'⟩ | ⟨-, h'⟩ <;> rw [h']
    · exact ⟨rfl, rfl, rfl, rfl, rfl, ⟨_, rfl⟩, ⟨_, s.urx.rxbShadow, .inl rfl, rfl⟩, ⟨s.tx.txbShadow, rfl⟩,
        errGrows_of_regs rfl⟩
    · exact ⟨rfl, rfl, rfl, rfl, rfl, ⟨_, rfl⟩, ⟨_, s.urx.rxbShadow, .inr rfl, rfl⟩, ⟨s.tx.txbShadow, rfl⟩,
        errGrows_of_regs rfl⟩
    · exact ⟨rfl, rfl, rfl, rfl, rfl, ⟨_, rfl⟩, ⟨_, _, .inl rfl, rfl⟩, ⟨s.tx.txbShadow, rfl⟩, errGrows_of_regs rfl⟩
    · exact ⟨rfl, rfl, rfl, rfl, rfl, ⟨_, rfl⟩, ⟨_, s.urx.rxbShadow, .inl rfl, rfl⟩, ⟨_, rfl⟩, errGrows_of_regs rfl⟩

/-- What a write to a register other than CMD can answer (45_control.md R342 to R349). -/
theorem writeReg_cases {r : Reg} (v : Word) (s : State) (hr : r ≠ .cmd) :
    (∃ e, (e = .busy ∨ e = .txovf ∨ e = .canovf) ∧ writeReg r v s = .next (flagErr e s)) ∨
    (r = .ctrl ∧ writeReg r v s = .next (writeCtrl v s)) ∨
    (r = .status ∧ writeReg r v s = .next (writeStatus v s)) ∨
    (r = .err ∧ writeReg r v s = .next (writeErr v s)) ∨
    (r = .irqEn ∧ writeReg r v s = .next { s with regs := { s.regs with irqEn := v.extractLsb' 0 5 } }) ∨
    (r = .framecfg ∧ s.tx.txBusy = false ∧ writeReg r v s =
      .next (toHunt { s with regs := { s.regs with frameCfg := frameCfgOf v s.regs.frameCfg } })) ∨
    (r = .bauddiv ∧ writeReg r v s = .next (writeBauddiv v s)) ∨
    (r = .c32init ∧ s.tx.txBusy = false ∧ writeReg r v s = .next { s with regs := { s.regs with c32init := v } }) ∨
    (r = .s8 ∧ writeReg r v s = .next { s with regs := { s.regs with s8 := v.extractLsb' 0 8 } }) ∨
    (r = .c32 ∧ writeReg r v s = .next { s with regs := { s.regs with c32 := v } }) ∨
    (r = .txinstr ∧ s.tx.txBusy = false ∧ writeReg r v s = .next { s with regs := { s.regs with txInstr := v } }) ∨
    (r = .txdata ∧ s.tx.txBusy = false ∧ s.tx.txLen ≠ Config.bufSize ∧ writeReg r v s =
      .next { s.putBytes .txbuf s.tx.txLen [v.extractLsb' 0 8] with tx := { s.tx with txLen := s.tx.txLen + 1 } }) ∨
    (r = .candata ∧ s.pal.canLen ≠ Config.canSize ∧ writeReg r v s =
      .next { s.putBytes .canbuf s.pal.canLen [v.extractLsb' 0 8] with
              pal := { s.pal with canLen := s.pal.canLen + 1 } }) ∨
    (writeReg r v s = .next s) := by
  cases r <;> simp only [writeReg, reduceCtorEq, false_and, true_and, false_or, ne_eq, not_true] at hr ⊢
  case ctrl => simp
  case status => simp
  case err => simp
  case irqEn => simp
  case framecfg => unfold writeFramecfg; cases s.tx.txBusy <;> simp
  case bauddiv => simp
  case c32init => unfold writeC32init; cases s.tx.txBusy <;> simp
  case s8 => simp
  case c32 => simp
  case txinstr => unfold writeTxinstr; cases s.tx.txBusy <;> simp
  case txdata =>
    unfold writeTxdata
    cases hb : s.tx.txBusy
    · by_cases h : s.tx.txLen = Config.bufSize
      · exact .inl ⟨.txovf, by simp, by simp [h]⟩
      · exact .inr (.inl ⟨rfl, h, by simp [h, hb]⟩)
    · simp
  case candata =>
    unfold writeCandata
    by_cases h : s.pal.canLen = Config.canSize <;> simp [h]
  all_goals simp

/-- A CTRL write changes CTRL, and can put the deframer in HUNT and the sampler in IDLE (45_control.md R347). -/
theorem writeCtrl_eq (v : Word) (s : State) : writeCtrl v s =
    { s with
      regs := { s.regs with ctrl := v.extractLsb' 0 3 }
      df := if (s.rxEn && !v.getLsbD 0) || (!s.passthru && v.getLsbD 2) then { s.df with rxst := .hunt } else s.df
      urx := if s.rxEn && !v.getLsbD 0 then { s.urx with urxst := .idle } else s.urx } := by
  unfold writeCtrl
  cases (s.rxEn && !v.getLsbD 0) <;> cases (!s.passthru && v.getLsbD 2) <;> rfl

/-- A property that every agent's step keeps is kept by every step of the machine. -/
theorem step_keeps {P : State → Prop}
    (hpop : ∀ s, P s → P s.popInput)
    (hcmd : ∀ i s t, (encodeCmd i).isSome = true → P s → exec i s = .next t → P t)
    (hread : ∀ a s t, P s → execBusRead a s = .next t → P t)
    (hwrite : ∀ r v s t, r ≠ .cmd → P s → writeReg r v s = .next t → P t)
    (herr : ∀ e s, P s → P (flagErr e s))
    (hser : ∀ s, P s → P { s with tx := serializerTick s.tx, tick := { s.tick with txOwed := false } })
    (hsam : ∀ r s, P s → P (samplerTick r { s with tick := { s.tick with rxOwed := none } }))
    (hclk : ∀ r s, P s → P (clockEdge r s))
    (hrst : ∀ s, P s → P (hardReset s))
    {s t : State} (hs : P s) (h : step s = .next t) : P t := by
  have hser' : ∀ s, P s → P (serializerStep s) := fun s hs => by
    rcases serializerStep_cases s with ⟨-, h⟩ | ⟨-, h⟩ <;> rw [h]
    · exact hser s hs
    · exact hs
  have hsam' : ∀ s, P s → P (samplerStep s) := fun s hs => by
    rcases samplerStep_cases s with ⟨r, -, h⟩ | ⟨-, h⟩ <;> rw [h]
    · exact hsam r s hs
    · exact hs
  rcases step_cases h with ⟨acc, -, h⟩ | (rfl | rfl) | (rfl | rfl) | ⟨r, rfl⟩ | ⟨-, rfl⟩
  · have hp := hpop s hs
    exact exec_keeps (P := P) (fun i t hi h => hcmd i _ t hi hp h) (fun a t h => hread a _ t hp h)
      (fun r v t hr h => hwrite r v _ t hr hp h) hp (fun e => herr e _ hp) _ t h
  · exact hser' _ hs
  · exact hser' _ (hpop s hs)
  · exact hsam' _ hs
  · exact hsam' _ (hpop s hs)
  · exact hclk r _ (hpop s hs)
  · exact hrst _ (hpop s hs)

end Sys2Proof.Machine
end

