-- ==== Sys2Proof/Laws/PerInstr.lean ====
section
/-! SUPPORT. Family RsvZero: the word of every command has its reserved field 0 (30_encoding.md R102). -/

namespace Sys2Proof.Laws.RsvZero

/-- The command word of the instruction, if it is a command, has RSV = 0. -/
def Statement (i : Instr) : Prop := ∀ w, encodeCmd i = some w → rsvField w = 0

/-- `(OP << 24) | arg` has RSV = 0. -/
theorem rsv_cmdWord (op arg : Byte) : rsvField (cmdWord op arg) = 0 := by
  apply BitVec.eq_of_getLsbD_eq
  intro j hj
  simp only [rsvField, cmdWord, BitVec.getLsbD_extractLsb', BitVec.getLsbD_append, hj, decide_true, Bool.true_and]
  rw [if_neg (by omega), if_pos (by omega)]
  simp

theorem of_word {i : Instr} {op arg : Byte} (h : encodeCmd i = some (cmdWord op arg)) : Statement i := by
  intro w hw
  rw [h] at hw
  injection hw with hw
  exact hw ▸ rsv_cmdWord op arg

theorem of_none {i : Instr} (h : encodeCmd i = none) : Statement i := by
  intro w hw; rw [h] at hw; cases hw

theorem nop : Statement .nop := of_word rfl
theorem srst : Statement .srst := of_word rfl
theorem s8Clr : Statement .s8Clr := of_word rfl
theorem s8Add (b : Byte) : Statement (.s8Add b) := of_word rfl
theorem c32Init : Statement .c32Init := of_word rfl
theorem c32Add (b : Byte) : Statement (.c32Add b) := of_word rfl
theorem txbClr : Statement .txbClr := of_word rfl
theorem rxbRel : Statement .rxbRel := of_word rfl
theorem canbClr : Statement .canbClr := of_word rfl
theorem txFrame : Statement .txFrame := of_word rfl
theorem txRaw : Statement .txRaw := of_word rfl
theorem ucBuild : Statement .ucBuild := of_word rfl
theorem ucCheck (l : BitVec 3) : Statement (.ucCheck l) := of_word rfl
theorem palTx : Statement .palTx := of_word rfl
theorem palSeg : Statement .palSeg := of_word rfl
theorem palAbort : Statement .palAbort := of_word rfl
theorem busRead (a : Addr) : Statement (.busRead a) := of_none rfl
theorem busWrite (a : Addr) (v : Word) : Statement (.busWrite a v) := of_none rfl

end Sys2Proof.Laws.RsvZero
end

