-- ==== Sys2Proof/Tests/Slice0.lean ====
section
/-! SUPPORT. The model's own tests: the encodings of 30_encoding.md written out bit by bit, the vectors of
95_test_vectors.md one step at a time, and for every statement with hypotheses a state that meets them. -/

namespace Sys2Proof.Tests

open Sys2Proof.Machine

/-! ## Well-formedness -/

theorem test_wf_refuses_misaligned_read : (Instr.busRead 0x0002).wellFormed = false := by decide
theorem test_wf_refuses_misaligned_write : (Instr.busWrite 0x1001 0).wellFormed = false := by decide
/-- A write of S8_ADD's word to CMD goes by its own constructor. -/
theorem test_wf_refuses_command_word : (Instr.busWrite 0x0010 0x110000A5).wellFormed = false := by decide
theorem test_wf_takes_last_aligned_address : (Instr.busRead 0xFFFC).wellFormed = true := by decide
/-- A reserved word written to CMD is a plain write. -/
theorem test_wf_takes_reserved_word : (Instr.busWrite 0x0010 0x02000000).wellFormed = true := by decide

/-! ## Decoding: OP in bits 31:24, RSV in 23:8, ARG in 7:0 (30_encoding.md R102, R105) -/

theorem test_decode_nop : decodeTableWord 32 0b00000000_0000000000000000_00000000 = some .nop := by decide
theorem test_decode_srst : decodeTableWord 32 0b00000001_0000000000000000_00000000 = some .srst := by decide
theorem test_decode_s8_clr : decodeTableWord 32 0b00010000_0000000000000000_00000000 = some .s8Clr := by decide
theorem test_decode_s8_add : decodeTableWord 32 0b00010001_0000000000000000_10000001 = some (.s8Add 0x81) := by decide
theorem test_decode_c32_init : decodeTableWord 32 0b00011000_0000000000000000_00000000 = some .c32Init := by decide
theorem test_decode_c32_add : decodeTableWord 32 0b00011001_0000000000000000_01100001 = some (.c32Add 0x61) := by decide
theorem test_decode_txb_clr : decodeTableWord 32 0b00100000_0000000000000000_00000000 = some .txbClr := by decide
theorem test_decode_rxb_rel : decodeTableWord 32 0b00100001_0000000000000000_00000000 = some .rxbRel := by decide
theorem test_decode_canb_clr : decodeTableWord 32 0b00100010_0000000000000000_00000000 = some .canbClr := by decide
theorem test_decode_tx_frame : decodeTableWord 32 0b00110000_0000000000000000_00000000 = some .txFrame := by decide
theorem test_decode_tx_raw : decodeTableWord 32 0b00110001_0000000000000000_00000000 = some .txRaw := by decide
theorem test_decode_uc_build : decodeTableWord 32 0b01000000_0000000000000000_00000000 = some .ucBuild := by decide
theorem test_decode_uc_check : decodeTableWord 32 0b01000001_0000000000000000_00000110 = some (.ucCheck 6) := by decide
theorem test_decode_pal_tx : decodeTableWord 32 0b01001000_0000000000000000_00000000 = some .palTx := by decide
theorem test_decode_pal_seg : decodeTableWord 32 0b01001001_0000000000000000_00000000 = some .palSeg := by decide
theorem test_decode_pal_abort : decodeTableWord 32 0b01001010_0000000000000000_00000000 = some .palAbort := by decide
theorem test_decode_bus_read : decodeTableWord 16 0b0010000000000100 = some (.busRead 0x2004) := by decide
/-- The address in the low 16 bits, the data above it. -/
theorem test_decode_bus_write :
    decodeTableWord 48 (0x00110302 * 65536 + 0x0014) = some (.busWrite 0x0014 0x00110302) := by decide
theorem test_decode_rejects_reserved_op :
    decodeTableWord 32 0x02000000 = none ∧ rejectReason 0x02000000 = .reservedOp := by decide
theorem test_decode_rejects_rsv :
    decodeTableWord 32 0x11000100 = none ∧ rejectReason 0x11000100 = .rsvNotZero := by decide
theorem test_decode_rejects_arg :
    decodeTableWord 32 0x41000008 = none ∧ rejectReason 0x41000008 = .argNotZero := by decide
/-- A placed word is what the very next step runs, and it is the first one after reset. -/
theorem test_withFetchWord_runs : step (State.reset.withFetchWord 32 0x110000A5) = exec (.s8Add 0xA5) State.reset := by rfl

/-! ## States for the vectors -/

/-- The state after reset with the two OPEN parameters given values: DIV = 9, initial CRC32 0. -/
def base : State :=
  { State.reset with
    regs := { State.reset.regs with c32init := 0, c32 := 0 }
    tick := { State.reset.tick with div := 9 } }

/-- TXBUF holding bytes, TXLEN their count. -/
def withTx (bs : List Byte) (s : State) : State :=
  { s with tx := { s.tx with txLen := bs.length }, mem := { s.mem with txbuf := Memory.putList [] 0 bs } }

/-- CANBUF holding bytes, CANLEN their count. -/
def withCan (bs : List Byte) (s : State) : State :=
  { s with pal := { s.pal with canLen := bs.length }, mem := { s.mem with canbuf := Memory.putList [] 0 bs } }

def withCtrl (c : BitVec 3) (s : State) : State := { s with regs := { s.regs with ctrl := c } }
def withErr (e : BitVec 15) (s : State) : State := { s with regs := { s.regs with err := e } }
def withBusy (q : List Byte) (s : State) : State := { s with tx := { s.tx with txBusy := true, txq := q } }
def withInput (i : Input) (s : State) : State := { s with env := { s.env with inputs := [i] } }
def withRxst (x : RxState) (s : State) : State := { s with df := { s.df with rxst := x } }
def withUrx (x : UrxState) (c : Nat) (s : State) : State := { s with urx := { s.urx with urxst := x, urxCnt := c } }
def withFull (s : State) : State := { s with hold := { s.hold with rxFull := true, rxLen := 3 } }
def withKeys (k : BitVec 128) (n : Nat) (s : State) : State := { s with pal := { s.pal with keys := k, palN := n } }

/-- The state a meaning answers. -/
def after (s : State) (i : Instr) : State :=
  match exec i s with
  | .next t => t
  | .fault _ => s
  | .refused _ => s

/-! ## Vectors of 95_test_vectors.md, part 2 -/

theorem test_nop_changes_nothing : exec .nop base = .next base := by rfl
theorem test_srst_ends_transmission :
    ((after (withBusy [1] (withTx [1, 2, 3] base)) .srst).statusWord,
      (after (withBusy [1] (withTx [1, 2, 3] base)) .srst).tx.txLen,
      (after (withBusy [1] (withTx [1, 2, 3] base)) .srst).byte .txbuf 0) = (0, 0, 1) := by decide
theorem test_srst_restores_framecfg :
    (after { base with regs := { base.regs with frameCfg := { sm := 1, em := 1, chk := .crc32, lw := true, iw := 4 } } }
      .srst).regs.frameCfg.word = 0x00100302 := by decide
theorem test_s8_clr : (after { base with regs := { base.regs with s8 := 0x5A } } .s8Clr).regs.s8 = 0 := by decide
theorem test_s8_add_wraps :
    (after { base with regs := { base.regs with s8 := 0xFF } } (.s8Add 1)).regs = { base.regs with s8 := 0 } := by decide
theorem test_c32_init :
    (after { base with regs := { base.regs with c32init := 0xFFFFFFFF } } .c32Init).regs.c32 = 0xFFFFFFFF := by decide
theorem test_c32_add_61 :
    (after { base with regs := { base.regs with c32 := 0xFFFFFFFF } } (.c32Add 0x61)).regs.c32 = 0x174841BC := by decide
theorem test_c32_add_80 : (after base (.c32Add 0x80)).regs.c32 = 0xEDB88320 := by decide
/-- E1: the check bytes of "123456789" and the zero residue. -/
theorem test_crc32_check_value :
    crc32 0xFFFFFFFF [0x31, 0x32, 0x33, 0x34, 0x35, 0x36, 0x37, 0x38, 0x39] = 0x340BC6D9 := by decide +kernel
theorem test_sum8_123456789 : sum8 0 [0x31, 0x32, 0x33, 0x34, 0x35, 0x36, 0x37, 0x38, 0x39] = 0xDD := by decide
theorem test_txb_clr : (after (withTx [1, 2, 3] base) .txbClr).tx.txLen = 0 := by decide
theorem test_txb_clr_busy :
    ((after (withBusy [1] (withTx [1] base)) .txbClr).tx.txLen, (after (withBusy [1] (withTx [1] base)) .txbClr).regs.err)
      = (1, 0x02) := by decide
theorem test_rxb_rel : (after (withFull base) .rxbRel).hold = { base.hold with rxLen := 3 } := by decide
theorem test_canb_clr : (after (withCan [1, 2, 3, 4, 5, 6, 7, 8] base) .canbClr).pal.canLen = 0 := by decide

/-- The state of program A before TX_FRAME: CTRL 2, TXINSTR 0x6162, payload 01 02 03. -/
def readyTx : State :=
  withTx [1, 2, 3] (withCtrl 2 { base with regs := { base.regs with txInstr := 0x6162 } })

theorem test_tx_frame_reference :
    (after readyTx .txFrame).tx.txq = [0x02, 0x03, 0x61, 0x62, 0x01, 0x02, 0x03, 0xCC, 0x03]
      ∧ (after readyTx .txFrame).statusWord = 0x00010002 := by decide
theorem test_tx_frame_mode : (after (withCtrl 0 readyTx) .txFrame).regs.err = 0x04 := by decide
/-- FRAMECFG 0x00110302: the check field is the CRC32 of the covered bytes, least significant byte first. -/
theorem test_frame_crc32 :
    frameOf { sm := 0x02, em := 0x03, chk := .crc32, lw := false, iw := 2 } 0 0x6162 [1, 2, 3]
      = [0x02, 0x03, 0x61, 0x62, 0x01, 0x02, 0x03, 0xD4, 0x4A, 0x14, 0x19, 0x03] := by decide +kernel
theorem test_tx_raw : (after (withTx [0x0D, 0x0A] (withCtrl 6 base)) .txRaw).tx.txq = [0x0D, 0x0A] := by decide
theorem test_tx_raw_empty :
    ((after (withCtrl 6 base) .txRaw).tx.txDone, (after (withCtrl 6 base) .txRaw).tx.txBusy) = (true, false) := by decide
theorem test_uc_build :
    (after (withTx [0x10, 0x20, 0x30] base) .ucBuild).bytes .txbuf 0 8 = [0x10, 0x20, 0x30, 0x60, 0, 0, 0, 0]
      ∧ (after (withTx [0x10, 0x20, 0x30] base) .ucBuild).tx.txLen = 8 := by decide
theorem test_uc_build_arg : (after (withTx [0, 0, 0, 0, 0, 0, 0, 0] base) .ucBuild).regs.err = 0x08 := by decide
theorem test_uc_check_good : (after (withCan [0x10, 0x20, 0x30, 0x60, 0, 0, 0, 0] base) (.ucCheck 3)).regs.ucOk = true := by
  decide
theorem test_uc_check_bad : (after (withCan [0x10, 0x20, 0x30, 0x61, 0, 0, 0, 0] base) (.ucCheck 3)).regs.ucOk = false := by
  decide
theorem test_pal_tx_one_segment :
    (after (withTx [0x11, 0x22, 0x33] base) .palTx).bytes .segbuf 0 8
      = [0x80, 0x11, 0x22, 0x33, 0x71, 0xEE, 0x86, 0x05] := by decide +kernel
/-- 01 to 0A: two segments, the last with 7 data bytes. -/
theorem test_pal_tx_two_segments :
    readValue .seginfo (after (withTx [1, 2, 3, 4, 5, 6, 7, 8, 9, 10] base) .palTx) = 0x00000702
      ∧ (after (withTx [1, 2, 3, 4, 5, 6, 7, 8, 9, 10] base) .palTx).bytes .segbuf 8 8
        = [0x00, 0x08, 0x09, 0x0A, 0x0D, 0x3F, 0xAA, 0xC6] := by decide +kernel

/-- One segment that is a whole pallet (P-4). -/
def oneSegment : State := withCan [0x80, 0x11, 0x22, 0x33, 0x71, 0xEE, 0x86, 0x05] base
/-- The first of two segments (P-1), and the reassembler after it. -/
def firstSegment : State := withCan [0x81, 1, 2, 3, 4, 5, 6, 7] base
def afterFirst : State := after firstSegment .palSeg

theorem test_pal_seg_completes :
    (after oneSegment .palSeg).bytes .palbuf 0 3 = [0x11, 0x22, 0x33]
      ∧ readValue .palinfo (after oneSegment .palSeg) = 0x00000300
      ∧ (after oneSegment .palSeg).statusWord = 0x00000030 := by decide +kernel
/-- P-8: a first-flagged segment with another count. -/
theorem test_pal_seg_conflict :
    (after (withCan [0x85] afterFirst) .palSeg).regs.err = 0x2000
      ∧ (after (withCan [0x85] afterFirst) .palSeg).statusWord = 0x00000010 := by decide
theorem test_pal_abort :
    (after afterFirst .palAbort).regs.err = 0x4000 ∧ readValue (.palkeys 0) (after afterFirst .palAbort) = 0 := by decide
theorem test_pal_abort_idle : exec .palAbort base = .next base := by rfl
theorem test_bus_read_framecfg : (after base (.busRead 0x0014)).env.rdata = 0x00100302 := by decide
theorem test_bus_read_misaligned : (after base (.busRead 0x0002)).regs.err = 0x20 := by decide
/-- CHK = 3 keeps CHK, IW = 7 keeps IW, and the other fields take effect. -/
theorem test_bus_write_framecfg : (after base (.busWrite 0x0014 0xFFFFFFFF)).regs.frameCfg.word = 0x0014FFFF := by decide
theorem test_bus_write_err_clears_ones : (after (withErr 0x60 base) (.busWrite 0x0008 0x20)).regs.err = 0x40 := by decide

/-- D-1: the reference frame. -/
theorem test_deframe_reference :
    let t := [0x02, 0x03, 0x61, 0x62, 0x01, 0x02, 0x03, 0xCC, 0x03].foldl (fun s b => deframe b s) base
    t.hold = { base.hold with rxFull := true, rxLen := 3, rxInstr := 0x6162 } ∧ t.bytes .rxbuf 0 3 = [1, 2, 3] := by decide
/-- D-4: a drop at 02, which starts the next frame, which is dropped too. -/
theorem test_deframe_rescans :
    let t := [0x02, 0x03, 0x61, 0x62, 0x01, 0x02, 0x03, 0xCC, 0x02, 0x02, 0x03, 0x61, 0x62, 0x01, 0x02, 0x03, 0xCC,
      0x03].foldl (fun s b => deframe b s) base
    (t.regs.err, t.hold.cntBadframe, t.hold.rxFull, t.df.rxst) = (0x40, 2, false, .hunt) := by decide
/-- D-7: RXLONG. -/
theorem test_deframe_long :
    let s := { base with regs := { base.regs with frameCfg := { base.regs.frameCfg with lw := true } } }
    let t := [0x02, 0x04, 0x01].foldl (fun s b => deframe b s) s
    (t.regs.err, t.hold.cntBadframe, t.df.rxst) = (0x100, 1, .hunt) := by decide
/-- The bits of 0xA3 on the line: 0, then 1 1 0 0 0 1 0 1, then 1. -/
theorem test_char_levels :
    (List.range 10).map (charLevel 0xA3) = [false, true, true, false, false, false, true, false, true, true] := by decide
/-- U-1: the last sample of a character delivers its byte. -/
theorem test_sampler_stop :
    (samplerTick true (withUrx .stop 15 (withCtrl 5 { base with urx := { base.urx with urxSh := 0x55 } }))).urx.rawFifo
      = [0x55] := by decide

/-! ## Witnesses: for each statement with hypotheses, states and operands that meet them -/

/-- EncodedInstructionDecodesBack, at a command, at the last address and at a word that is no command. -/
theorem witness_encoded :
    (Instr.ucCheck 7).wellFormed = true ∧ (Instr.busRead 0xFFFC).wellFormed = true
      ∧ (Instr.busWrite 0x0010 0x41000008).wellFormed = true := by decide
/-- CommandWordRunsOrIsRefused and RefusalSetsFirstFailingBit: the last word that is UC_CHECK and the one after it. -/
theorem witness_named_command :
    namedCommand 0x41000007 = some (.ucCheck 7) ∧ namedCommand 0x41000008 = none ∧ namedCommand 0x4B000000 = none := by
  decide
/-- The words with a bit that is no argument, for each opcode that a statement gives to `badopUnless`. -/
theorem witness_badop :
    [((0x00000001 : Word), 0x00, 1), (0x01000001, 0x01, 1), (0x10000001, 0x10, 1), (0x11000100, 0x11, 256),
      (0x18000001, 0x18, 1), (0x19000100, 0x19, 256), (0x20000001, 0x20, 1), (0x21000001, 0x21, 1),
      (0x22000001, 0x22, 1), (0x30000001, 0x30, 1), (0x31000001, 0x31, 1), (0x40000001, 0x40, 1),
      (0x41000008, 0x41, 8), (0x48000001, 0x48, 1), (0x4A800000, 0x4A, 0x800000)].all
      (fun x => x.1.toNat / 2 ^ 24 == x.2.1 && x.1.toNat % 2 ^ 24 == x.2.2) = true := by decide
/-- StepRunsDecodedAccess: a known input, and none. -/
theorem witness_step_runs :
    decode (.read 0x0004) = .busRead 0x0004 ∧ (withInput (.host (.read 0x0004)) base).nextInput = .host (.read 0x0004)
      ∧ (withInput (.clk true) base).env.inputs = .clk true :: [] ∧ base.env.inputs = [] := by decide
/-- Statements about every step: a step that changes S8, one that keeps it, one that is `rst_n`. -/
theorem witness_step :
    step (withInput (.host (.write 0x0020 5)) base) = exec (.busWrite 0x0020 5) base
      ∧ step (withInput (.clk true) base) = .next (clockEdge true base)
      ∧ step (withInput .rstN base) = .next (hardReset base) := ⟨rfl, rfl, rfl⟩
/-- ChecksumUnitsAreTheHosts and CheckAndPalletCommandsLeaveEngines: each command answers a next state. -/
theorem witness_commands :
    [Instr.s8Clr, .s8Add 0xFF, .c32Init, .c32Add 0, .ucBuild, .ucCheck 7, .palTx, .palSeg, .palAbort].all
      (fun i => match exec i oneSegment with | .next _ => true | .fault _ => false | .refused _ => false) = true := by
  decide +kernel
/-- SingleByteErrorIsDetected: 01 02 03 04 with its CRC32, its first byte changed. -/
theorem witness_single_byte :
    crc32 0 [1, 2, 3, 4, 0xD1, 0x24, 0x78, 0x97] = 0 ∧ 0 < [(1 : Byte), 2, 3, 4, 0xD1, 0x24, 0x78, 0x97].length
      ∧ [(1 : Byte), 2, 3, 4, 0xD1, 0x24, 0x78, 0x97][0]? ≠ some 0 := by decide +kernel
/-- FrameLayout: the longest payloads of the two length fields, with every instruction byte. -/
theorem witness_frame_layout :
    (List.replicate 255 (0 : Byte)).length ≤ 255 ∧ (List.replicate 1024 (0 : Byte)).length ≤ 1024
      ∧ ({ sm := 0, em := 0, chk := .crc32, lw := true, iw := 4 } : FrameCfg).lw = true
      ∧ base.regs.frameCfg.lw = false ∧ 3 < (4 : Fin 5).val := by
  refine ⟨?_, ?_, rfl, rfl, by decide⟩ <;> rw [List.length_replicate]
/-- RefusalSetsFirstFailingBit: one state for each clause. -/
theorem witness_refusals :
    (withBusy [1] base).tx.txBusy = true ∧ (base.tx.txBusy = false ∧ base.txEn = false)
      ∧ ((withCtrl 6 base).txEn = true ∧ (withCtrl 6 base).passthru = true ∧ (withCtrl 2 base).passthru = false) := by
  decide
theorem witness_refusals_length (s : State) (h : s = withTx (List.replicate 1024 0) (withCtrl 2 base)) :
    s.tx.txBusy = false ∧ s.txEn = true ∧ s.passthru = false ∧ s.regs.frameCfg.lw = false ∧ 255 < s.tx.txLen
      ∧ 7 < s.tx.txLen ∧ 892 < s.tx.txLen ∧ s.tx.txLen = 1024 := by
  have hl : s.tx.txLen = 1024 := by rw [h]; exact List.length_replicate
  refine ⟨by rw [h]; rfl, by rw [h]; rfl, by rw [h]; rfl, by rw [h]; rfl, ?_, ?_, ?_, hl⟩ <;> omega
theorem witness_refusals_can :
    base.pal.canLen ≤ (0 : BitVec 3).toNat ∧ base.pal.canLen = 0 ∧ (withCan [1, 2, 3, 4, 5, 6, 7, 8] base).pal.canLen = 8 := by
  decide
/-- TransmissionEndsAfter160TicksPerByte and LineCarriesQueuedBytes: TIDLE with nothing queued and with two bytes, and
the last tick of a stop bit. -/
theorem witness_transmission :
    (base.tx.utxst = .tidle ∧ base.tx.txq = [])
      ∧ (withBusy [0x55, 0xA3] base).tx.utxst = .tidle ∧ (withBusy [0x55, 0xA3] base).tx.txBusy = true
      ∧ (withBusy [0x55, 0xA3] base).tx.txq = 0x55 :: [0xA3] ∧ 319 < 160 * (withBusy [0x55, 0xA3] base).tx.txq.length
      ∧ ({ base.tx with utxst := .tstop, utxCnt := 15 } : Transmitter).txq = [] := by decide
/-- TransmitInputsFrozenWhileBusy: a busy state before and after a step that takes a byte from TXQ. -/
theorem witness_frozen :
    let s := withInput .serializer { withBusy [1, 2] base with tick := { base.tick with txOwed := true } }
    s.tx.txBusy = true ∧ (serializerStep s.popInput).tx.txBusy = true ∧ (serializerStep s.popInput).tx.txq = [2]
      ∧ step s = .next (serializerStep s.popInput) := ⟨rfl, rfl, rfl, rfl⟩
/-- OneTickEveryDivPlusOneEdges: DIV = 9, at the first and the last edge. -/
theorem witness_one_tick :
    base.tick.dv = 0 ∧ base.tick.txOwed = false ∧ base.tick.rxOwed = none ∧ 0 ≤ base.tick.div.toNat
      ∧ 9 ≤ base.tick.div.toNat := by decide
/-- SamplerIdleStartAndBreak: each state, with the receiver on, and off. -/
theorem witness_sampler :
    base.rxEn = false ∧ (withCtrl 1 base).rxEn = true ∧ (withCtrl 1 base).urx.urxst = .idle
      ∧ (withUrx .start 7 (withCtrl 1 base)).urx.urxst = .start ∧ (withUrx .start 7 (withCtrl 1 base)).rxEn = true
      ∧ (withUrx .brk 16 (withCtrl 1 base)).urx.urxst = .brk ∧ (withUrx .brk 16 (withCtrl 1 base)).rxEn = true := by decide
/-- WellFormedCharacterIsReceived. -/
theorem witness_character : (withCtrl 5 base).rxEn = true ∧ (withCtrl 5 base).urx.urxst = .idle := by decide
/-- EncodedFrameIsAccepted: the longest one-byte length, and the longest of two bytes. -/
theorem witness_frame_accepted :
    base.df.rxst = .hunt ∧ base.hold.rxFull = false
      ∧ (List.replicate 255 (0 : Byte)).length ≤ (if base.regs.frameCfg.lw then 1024 else 255)
      ∧ (List.replicate 1024 (0 : Byte)).length ≤ 1024 := by
  refine ⟨rfl, rfl, ?_, ?_⟩
  · rw [List.length_replicate]; decide
  · rw [List.length_replicate]
/-- BadFrameIsDroppedAndByteRescanned: a byte that is not EM, a wrong SUM8, a CRC32 residue. -/
theorem witness_bad_frame :
    (withRxst .endm base).df.rxst = .endm ∧ (0x02 : Byte) ≠ (withRxst .endm base).regs.frameCfg.em
      ∧ ((withRxst .endm base).regs.frameCfg.chk = .sum8
        ∧ ({ base.df with rxS8 := 0xC9, rxChk := 0x02 } : Deframer).rxS8 ≠ ({ base.df with rxS8 := 0xC9, rxChk := 0x02 } : Deframer).rxChk)
      ∧ (({ base.regs.frameCfg with chk := .crc32 } : FrameCfg).chk = .crc32 ∧ ({ base.df with rxC32 := 1 } : Deframer).rxC32 ≠ 0) := by
  decide
/-- GoodFrameIsPublishedOrOverruns: a good frame with SUM8 and with CRC32, the hold buffer free and taken. -/
theorem witness_good_frame :
    (withRxst .endm base).df.rxst = .endm
      ∧ ((withRxst .endm base).regs.frameCfg.chk = .sum8 ∧ (withRxst .endm base).df.rxS8 = (withRxst .endm base).df.rxChk)
      ∧ (({ base.regs.frameCfg with chk := .crc32 } : FrameCfg).chk = .crc32 ∧ base.df.rxC32 = 0)
      ∧ base.hold.rxFull = false ∧ (withFull (withRxst .endm base)).hold.rxFull = true := by decide
/-- OverlongLengthIsDropped: 1025, the least length that is too long, and the greatest. -/
theorem witness_overlong :
    let s := { withRxst .len base with regs := { base.regs with frameCfg := { base.regs.frameCfg with lw := true } },
                                       df := { base.df with rxst := .len, rxI := 1, rxLen := 4 } }
    s.df.rxst = .len ∧ s.regs.frameCfg.lw = true ∧ s.df.rxI = 1
      ∧ 1024 < s.df.rxLen.toNat % 256 * 256 + (1 : Byte).toNat
      ∧ 1024 < (0xFF : BitVec 16).toNat % 256 * 256 + (0xFF : Byte).toNat := by decide
/-- FramingErrorAbandonsFrame: with a frame in progress, and in passthrough mode. -/
theorem witness_framing_error :
    let s := withRxst .pay (withUrx .stop 15 (withCtrl 1 base))
    s.rxEn = true ∧ s.urx.urxst = .stop ∧ s.urx.urxCnt = 15 ∧ s.passthru = false ∧ s.df.rxst ≠ .hunt
      ∧ (withCtrl 5 s).rxEn = true ∧ (withCtrl 5 s).passthru = true := by decide
/-- PassthroughByteGoesToRawFifo: the first and the sixteenth tick of STOP, the mode off, the FIFO with room for one
byte and full. -/
theorem witness_passthrough :
    ((withUrx .stop 0 (withCtrl 1 base)).rxEn = true ∧ (withUrx .stop 0 (withCtrl 1 base)).urx.urxst = .stop
        ∧ (withUrx .stop 0 (withCtrl 1 base)).urx.urxCnt ≠ 15 ∧ (withUrx .stop 15 (withCtrl 1 base)).urx.urxCnt = 15)
      ∧ (withCtrl 1 base).passthru = false ∧ (withCtrl 5 base).passthru = true
      ∧ ({ base.urx with rawFifo := List.replicate 15 0 } : Receiver).rawFifo.length < 16
      ∧ ({ base.urx with rawFifo := List.replicate 16 0 } : Receiver).rawFifo.length = 16 := by decide
/-- 44_serial.md R317: outside passthrough mode a received SM starts a frame and is counted. -/
theorem test_receive_byte_to_deframer :
    ((receiveByte 0x02 (withCtrl 1 base)).df.rxst, (receiveByte 0x02 (withCtrl 1 base)).urx.rxb) = (.len, 1) := by decide
/-- HeldFrameIsStable: a frame held before and after a step. -/
theorem witness_held :
    (withFull base).hold.rxFull = true ∧ step (withInput (.clk true) (withFull base)) = .next (clockEdge true (withFull base))
      ∧ (clockEdge true (withFull base)).hold.rxFull = true := ⟨rfl, rfl, rfl⟩
/-- UcBuildAppendsChecksum: no content, the most content, one byte too many, and busy. -/
theorem witness_uc_build :
    base.tx.txBusy = false ∧ base.tx.txLen ≤ 7 ∧ (withTx [1, 2, 3, 4, 5, 6, 7] base).tx.txLen = 7
      ∧ 7 < (withTx [1, 2, 3, 4, 5, 6, 7, 8] base).tx.txLen ∧ (withBusy [1] base).tx.txBusy = true := by decide
/-- PalTxWritesSegments: no data, the most data, one byte too many. -/
theorem witness_pal_tx :
    base.tx.txLen ≤ 892 ∧ (withTx (List.replicate 892 0) base).tx.txLen = 892
      ∧ 892 < (withTx (List.replicate 893 0) base).tx.txLen := by
  refine ⟨by decide, List.length_replicate, ?_⟩
  show 892 < (List.replicate 893 (0 : Byte)).length
  rw [List.length_replicate]; omega
/-- PalSegBuffersSegment: the first of two segments, first-flagged, and a middle segment with no count yet. -/
theorem witness_pal_seg_buffers :
    (1 ≤ firstSegment.pal.canLen ∧ firstSegment.pal.canLen ≤ 8 ∧ 1 = (firstSegment.byte .canbuf 0).toNat % 128
        ∧ 2 = (if 128 ≤ (firstSegment.byte .canbuf 0).toNat then 1 + 1 else firstSegment.pal.palN)
        ∧ (128 ≤ (firstSegment.byte .canbuf 0).toNat → firstSegment.pal.palN = 0 ∨ firstSegment.pal.palN = 1 + 1)
        ∧ ¬ (2 ≠ 0 ∧ (firstSegment.pal.keys ||| ((1 : BitVec 128) <<< 1)).toNat = 2 ^ 2 - 1))
      ∧ ((withCan [0x7F] base).byte .canbuf 0).toNat % 128 = 127 := by decide
/-- PalSegCompletesReassembly: a whole pallet in one segment, and one too short for a CRC. -/
theorem witness_pal_seg_completes :
    (1 ≤ oneSegment.pal.canLen ∧ oneSegment.pal.canLen ≤ 8 ∧ 0 = (oneSegment.byte .canbuf 0).toNat % 128
        ∧ 1 = (if 128 ≤ (oneSegment.byte .canbuf 0).toNat then 0 + 1 else oneSegment.pal.palN)
        ∧ (128 ≤ (oneSegment.byte .canbuf 0).toNat → oneSegment.pal.palN = 0 ∨ oneSegment.pal.palN = 0 + 1)
        ∧ (oneSegment.pal.keys ||| ((1 : BitVec 128) <<< 0)).toNat = 2 ^ 1 - 1
        ∧ (∀ j, j < 1 → j ≠ 0 → (oneSegment.byte .segl j).toNat ≤ 7))
      ∧ 4 ≤ (oneSegment.bytes .canbuf 1 7).length ∧ crc32 oneSegment.regs.c32init (oneSegment.bytes .canbuf 1 7) = 0
      ∧ ((withCan [0x80] base).bytes .canbuf 1 0).length < 4 := by decide +kernel
/-- ReassemblyFailsOnConflictOrAbort: each clause. -/
theorem witness_pal_fails :
    let s := withCan [0x85] (withKeys 2 2 base)
    1 ≤ s.pal.canLen ∧ 128 ≤ (s.byte .canbuf 0).toNat ∧ s.pal.palN ≠ 0
      ∧ s.pal.palN ≠ (s.byte .canbuf 0).toNat % 128 + 1 ∧ s.pal.keys ≠ 0 ∧ base.pal.keys = 0 := by decide
/-- PalletReassemblesInAnyOrder: two segments in the other order. -/
theorem witness_pallet :
    base.pal.keys = 0 ∧ base.pal.palN = 0 ∧ [(1 : Byte), 2, 3, 4, 5, 6, 7, 8, 9, 10].length ≤ 892
      ∧ [1, 0].Perm (List.range (segCount (palletBuffer base.regs.c32init [1, 2, 3, 4, 5, 6, 7, 8, 9, 10]).length)) := by
  refine ⟨rfl, rfl, by decide, ?_⟩
  have h : segCount (palletBuffer base.regs.c32init [1, 2, 3, 4, 5, 6, 7, 8, 9, 10]).length = 2 := by decide
  rw [h]; decide
/-- RstNResetsEverything. -/
theorem witness_rst_n : (withInput .rstN base).nextInput = .rstN := by decide
/-- EnginesTakeOwedTicks: every input, with every tick owed and not. -/
theorem witness_engines :
    let s (i : Input) (t : Bool) (r : Option Bool) : State :=
      withInput i { base with tick := { base.tick with txOwed := t, rxOwed := r } }
    (∀ i t r, (s i t r).nextInput = i) ∧ (∀ i t r, (s i t r).tick.txOwed = t ∧ (s i t r).tick.rxOwed = r) :=
  ⟨fun _ _ _ => rfl, fun _ _ _ => ⟨rfl, rfl⟩⟩
/-- An engine that is owed no tick takes a step that only uses up its input. -/
theorem test_engine_not_owed :
    step (withInput .serializer base) = .next base ∧ step (withInput .sampler base) = .next base := ⟨rfl, rfl⟩
/-- ReadSideEffects: the raw FIFO empty and holding a byte. -/
theorem witness_read_effects :
    base.urx.rawFifo = [] ∧ ({ base.urx with rawFifo := [0x41] } : Receiver).rawFifo = 0x41 :: [] := by decide
/-- WindowsShowBuffers: the first and last byte of the first and last window. -/
theorem witness_windows :
    (Buffer.txbuf, 0x1000, 1024) ∈ [(Buffer.txbuf, 0x1000, 1024), (.canbuf, 0x5000, 8)] ∧ 0 < 1024 ∧ 1023 < 1024
      ∧ (Buffer.canbuf, 0x5000, 8) ∈ [(Buffer.txbuf, 0x1000, 1024), (.canbuf, 0x5000, 8)] ∧ 7 < 8
      ∧ target (BitVec.ofNat 16 (0x5000 + 4 * 7)) = .window .canbuf 7 := by decide
/-- UnmappedAccessSetsBadaddr: the ends of the two unmapped ranges, a misaligned address, and the mapped addresses that
they meet. -/
theorem witness_unmapped :
    [(0x007C : Addr), 0x0FFC, 0x5020, 0xFFFF, 0x0002].all unmapped = true
      ∧ [(0x0000 : Addr), 0x0078, 0x1000, 0x501C].all (fun a => !unmapped a) = true
      ∧ (after base (.busRead 0x0078)).regs.err.getLsbD 5 = false ∧ base.regs.err.getLsbD 5 = false := by decide
/-- PlainRegisterWrites, FramecfgWriteKeepsReservedFields and DataPushesAppend: not busy, busy, room and none. -/
theorem witness_writes :
    base.tx.txBusy = false ∧ (withBusy [1] base).tx.txBusy = true ∧ base.tx.txLen ≠ 1024 ∧ base.pal.canLen ≠ 8 := by decide
/-- ReadOnlyWritesAreIgnored: a register, the ends of the windows, a STATUS value. -/
theorem witness_read_only :
    (0x0078 : Addr) ∈ [(0x002C : Addr), 0x0078] ∧ 0x1000 ≤ (0x1000 : Addr).toNat ∧ (0x501C : Addr).toNat < 0x5020
      ∧ (0x501C : Addr).toNat % 4 = 0 ∧ (0xFFFFFFEB : Word).getLsbD 2 = false ∧ (0xFFFFFFEB : Word).getLsbD 4 = false := by
  decide
/-- IrqIsAnyEnabledCondition: an enabled source whose condition holds, and no source enabled. -/
theorem witness_irq :
    ({ withFull base with regs := { base.regs with irqEn := 1 } } : State).irq = true ∧ base.regs.irqEn = 0 := by decide
/-- ErrBitsAreSticky: the top bit set before a step. -/
theorem witness_sticky :
    (withErr 0x4000 base).regs.err.getLsbD 14 = true
      ∧ step (withInput (.clk true) (withErr 0x4000 base)) = .next (clockEdge true (withErr 0x4000 base)) := ⟨rfl, rfl⟩
/-- BuffersChangeOnlyByTheirOwners and CountersNeverDecrease: a step that is no reset. -/
theorem witness_no_reset :
    (withInput (.clk false) base).nextInput ≠ .rstN
      ∧ step (withInput (.clk false) base) = .next (clockEdge false base) := ⟨by decide, rfl⟩

/-- A state with every part in use: a transmission, a frame in its payload, a pallet begun. -/
def inUse : State :=
  { withKeys 1 0 (withBusy [2] (withTx [1] (withCtrl 3 base))) with
    tx := { base.tx with txBusy := true, txq := [2], txLen := 1, utxst := .tdata, utxCnt := 15, utxNbit := 7 }
    df := { base.df with rxst := .pay, rxLen := 2, rxJ := 1 }
    urx := { base.urx with urxst := .data, urxCnt := 15, urxNbit := 7 }
    mem := { base.mem with txbuf := [(0, 1)], asm := [(0, 5)], segl := [(0, 1)], segd := [(0, 9)] }
    env := { base.env with inputs := [.clk true] } }

/-- The invariants of the StepKeeps statements hold in it, and it takes a step. -/
theorem witness_invariants_transmit :
    transmitSound inUse ∧ serializerCounts inUse.tx ∧ samplerCounts inUse.urx ∧ dividerInRange inUse := by
  refine ⟨⟨by decide, by decide⟩, ⟨by decide, by decide⟩, ⟨by decide, by decide, by decide⟩, ?_⟩
  show (0 : Nat) ≤ 9
  omega
theorem witness_invariants_receive : receiveModes inUse ∧ deframerInField inUse := by
  refine ⟨⟨by decide, by decide⟩, ?_⟩
  show 0 = 0 ∧ 1 < 2 ∧ 2 ≤ 1024 ∧ ∀ j, j < 1 → (Memory.get [(0, 5)] j).isSome
  decide
theorem witness_invariants_memory : memCanonical inUse ∧ lengthsWritten inUse := by
  refine ⟨fun b => by cases b <;> decide, ?_⟩
  show 1 ≤ 1024 ∧ (∀ j, j < 1 → (Memory.get [(0, 1)] j).isSome) ∧ 0 ≤ 8 ∧ (∀ j, j < 0 → (Memory.get [] j).isSome)
    ∧ 0 ≤ 1024 ∧ (∀ j, j < 0 → (Memory.get [] j).isSome) ∧ 0 ≤ 16
  decide
theorem witness_invariants_pallet : reassemblerSound inUse := by
  refine ⟨fun k hk => ?_, by decide, by decide, by decide⟩
  have hk0 : k = 0 := by
    by_contra h
    have hk : (1 : BitVec 128).getLsbD k = true := hk
    simp [h] at hk
  subst hk0
  exact ⟨1, rfl, by decide, by decide⟩
theorem witness_invariants_step : step inUse = .next (clockEdge true { inUse with env := base.env }) := rfl

end Sys2Proof.Tests
end

section
/-! PROOFS. The engines' steps and the clock edge's step, one equation per case of what is owed (00_scope.md R6,
20_memory.md R84), and the statement they give. -/

namespace Sys2Proof.Machine

theorem serializerStep_of_owed {s : State} (h : s.tick.txOwed = true) :
    serializerStep s = { s with tx := serializerTick s.tx, tick := { s.tick with txOwed := false } } := by
  rcases serializerStep_cases s with ⟨-, hs⟩ | ⟨hno, -⟩
  · exact hs
  · simp [hno] at h

theorem serializerStep_of_not_owed {s : State} (h : s.tick.txOwed = false) : serializerStep s = s := by
  rcases serializerStep_cases s with ⟨howed, -⟩ | ⟨-, hs⟩
  · simp [howed] at h
  · exact hs

theorem samplerStep_of_owed {s : State} {r : Bool} (h : s.tick.rxOwed = some r) :
    samplerStep s = samplerTick r { s with tick := { s.tick with rxOwed := none } } := by
  rcases samplerStep_cases s with ⟨r', howed, hs⟩ | ⟨hno, -⟩
  · obtain rfl : r' = r := Option.some.inj (howed.symm.trans h)
    exact hs
  · simp [hno] at h

theorem samplerStep_of_not_owed {s : State} (h : s.tick.rxOwed = none) : samplerStep s = s := by
  rcases samplerStep_cases s with ⟨r, howed, -⟩ | ⟨-, hs⟩
  · simp [howed] at h
  · exact hs

theorem clockStep_of_serializer_owed (r : Bool) {s : State} (h : s.tick.txOwed = true) :
    clockStep r s = serializerStep s := by
  simp [clockStep, h]

theorem clockStep_of_sampler_owed (r : Bool) {s : State} {r' : Bool} (htx : s.tick.txOwed = false)
    (hrx : s.tick.rxOwed = some r') : clockStep r s = samplerStep s := by
  simp [clockStep, htx, hrx]

theorem clockStep_of_none_owed (r : Bool) {s : State} (htx : s.tick.txOwed = false) (hrx : s.tick.rxOwed = none) :
    clockStep r s = clockEdge r s.popInput := by
  simp [clockStep, htx, hrx]

theorem step_of_clk {s : State} {r : Bool} (h : s.nextInput = .clk r) : step s = .next (clockStep r s) := by
  simp [step, h]

theorem step_of_serializer {s : State} (h : s.nextInput = .serializer) :
    step s = .next (serializerStep s.popInput) := by
  simp [step, h]

theorem step_of_sampler {s : State} (h : s.nextInput = .sampler) : step s = .next (samplerStep s.popInput) := by
  simp [step, h]

end Sys2Proof.Machine

namespace Sys2Proof.Proofs
open Sys2Proof.Machine

/-- A clock edge waits for the serializer's owed tick, then for the sampler's, and is taken with neither owed. -/
theorem step_clk_waits (s : State) (r : Bool) (hin : s.nextInput = .clk r) :
    (s.tick.txOwed = true →
        step s = .next { s with tx := serializerTick s.tx, tick := { s.tick with txOwed := false } })
      ∧ (∀ r', s.tick.txOwed = false → s.tick.rxOwed = some r' →
          step s = .next (samplerTick r' { s with tick := { s.tick with rxOwed := none } }))
      ∧ (s.tick.txOwed = false → s.tick.rxOwed = none → step s = .next (clockEdge r s.popInput)) := by
  refine ⟨fun htx => ?_, fun r' htx hrx => ?_, fun htx hrx => ?_⟩
  · rw [step_of_clk hin, clockStep_of_serializer_owed r htx, serializerStep_of_owed htx]
  · rw [step_of_clk hin, clockStep_of_sampler_owed r htx hrx, samplerStep_of_owed hrx]
  · rw [step_of_clk hin, clockStep_of_none_owed r htx hrx]

/-- The serializer's input is used up, and its owed tick, if any, is taken. -/
theorem step_serializer_takes_owed (s : State) (hin : s.nextInput = .serializer) :
    (s.tick.txOwed = true →
        step s = .next { s.popInput with tx := serializerTick s.tx, tick := { s.tick with txOwed := false } })
      ∧ (s.tick.txOwed = false → step s = .next s.popInput) := by
  refine ⟨fun htx => ?_, fun htx => ?_⟩
  · rw [step_of_serializer hin, serializerStep_of_owed (by simpa using htx), popInput_tx, popInput_tick]
  · rw [step_of_serializer hin, serializerStep_of_not_owed (by simpa using htx)]

/-- The sampler's input is used up, and its owed tick, if any, is taken with the level held for it. -/
theorem step_sampler_takes_owed (s : State) (hin : s.nextInput = .sampler) :
    (∀ r', s.tick.rxOwed = some r' →
        step s = .next (samplerTick r' { s.popInput with tick := { s.tick with rxOwed := none } }))
      ∧ (s.tick.rxOwed = none → step s = .next s.popInput) := by
  refine ⟨fun r' hrx => ?_, fun hrx => ?_⟩
  · rw [step_of_sampler hin, samplerStep_of_owed (by simpa using hrx), popInput_tick]
  · rw [step_of_sampler hin, samplerStep_of_not_owed (by simpa using hrx)]

/-- Settles O53, input by input: the clock edge, the serializer's step, the sampler's step. -/
theorem enginesTakeOwedTicks : Obligations.EnginesTakeOwedTicks := fun s =>
  ⟨step_clk_waits s, step_serializer_takes_owed s, step_sampler_takes_owed s⟩

end Sys2Proof.Proofs
end

section
/-! PROOFS. What a host access can do, once: SRST, or a change inside `HostFrame`; and from it the shape of a proof
that every step keeps a property of the transmitter, the receiver, the hold registers and the bit clock. -/

namespace Sys2Proof.Machine

/-- What a host access other than SRST can do to the transmitter: push, clear or latch, complete an empty
transmission, or start one (41_frame_tx.md R172, R178). The serializer and TXB are the engine's. -/
inductive HostTx (a b : Transmitter) : Prop
  /-- TXLEN and TXB_SHADOW may change, and TX_DONE may be cleared. -/
  | keep (n : Nat) (d : Bool) (v : Word) (hd : d = true → a.txDone = true)
      (h : b = { a with txLen := n, txDone := d, txbShadow := v })
  | complete (hidle : a.txBusy = false) (h : b = { a with txDone := true })
  | start (q : List Byte) (hidle : a.txBusy = false) (hq : q ≠ [])
      (h : b = { a with txq := q, txDone := false, txBusy := true })

theorem HostTx.refl (a : Transmitter) : HostTx a a := .keep a.txLen a.txDone a.txbShadow id rfl

/-- What a host access other than SRST can do outside the buffers, the pallet unit and the registers. -/
structure HostFrame (s t : State) : Prop where
  tx : HostTx s.tx t.tx
  /-- RXB_REL clears RX_FULL. -/
  hold : ∃ b, t.hold = { s.hold with rxFull := b }
  /-- A CTRL write can idle the sampler, and a read can pop the raw FIFO or latch RXB_SHADOW. -/
  urx : ∃ x f v, (x = s.urx.urxst ∨ x = .idle) ∧ t.urx = { s.urx with urxst := x, rawFifo := f, rxbShadow := v }
  /-- A BAUDDIV write restarts the divider. -/
  tick : t.tick = s.tick ∨ ∃ d, t.tick = { s.tick with div := d, dv := 0 }

theorem HostFrame.of_tx {s t : State} (htx : HostTx s.tx t.tx) (hhold : t.hold = s.hold) (hurx : t.urx = s.urx)
    (htick : t.tick = s.tick) : HostFrame s t :=
  ⟨htx, ⟨_, hhold⟩, ⟨_, _, _, .inl rfl, hurx⟩, .inl htick⟩

theorem HostFrame.of_eq {s t : State} (htx : t.tx = s.tx) (hhold : t.hold = s.hold) (hurx : t.urx = s.urx)
    (htick : t.tick = s.tick) : HostFrame s t :=
  .of_tx (htx ▸ .refl _) hhold hurx htick

theorem PalFrame.hostFrame {s t : State} (h : PalFrame s t) : HostFrame s t := .of_eq h.tx h.hold h.urx h.tick

theorem frameOf_ne_nil (cfg : FrameCfg) (init t : Word) (p : List Byte) : frameOf cfg init t p ≠ [] := by
  simp [frameOf]

theorem exec_command_hostFrame {i : Instr} {s t : State} (hi : (encodeCmd i).isSome = true) (hs : i ≠ .srst)
    (h : exec i s = .next t) : HostFrame s t := by
  cases i <;> simp only [encodeCmd, Option.isSome_none, Bool.false_eq_true, ne_eq, not_true] at hi hs <;>
    simp only [exec] at h
  case nop | s8Clr | s8Add | c32Init | c32Add | canbClr => exact next_inj h ▸ .of_eq rfl rfl rfl rfl
  case txbClr =>
    rcases execTxbClr_cases s with ⟨-, hc⟩ | ⟨-, hc⟩ <;> obtain rfl := next_inj (hc.symm.trans h)
    · exact .of_eq rfl rfl rfl rfl
    · exact .of_tx (.keep 0 s.tx.txDone s.tx.txbShadow id rfl) rfl rfl rfl
  case rxbRel => exact next_inj h ▸ ⟨.refl _, ⟨false, rfl⟩, ⟨_, _, _, .inl rfl, rfl⟩, .inl rfl⟩
  case txFrame =>
    rcases execTxFrame_cases s with ⟨_, -, hc⟩ | ⟨hidle, -, -, -, hc⟩ <;> obtain rfl := next_inj (hc.symm.trans h)
    · exact .of_eq rfl rfl rfl rfl
    · exact .of_tx (.start _ hidle (frameOf_ne_nil _ _ _ _) rfl) rfl rfl rfl
  case txRaw =>
    rcases execTxRaw_cases s with ⟨_, -, hc⟩ | ⟨hidle, -, -, -, hc⟩ | ⟨hidle, -, -, hlen, hc⟩ <;>
      obtain rfl := next_inj (hc.symm.trans h)
    · exact .of_eq rfl rfl rfl rfl
    · exact .of_tx (.complete hidle rfl) rfl rfl rfl
    · have hq : s.bytes .txbuf 0 s.tx.txLen ≠ [] := by
        simpa [← List.length_eq_zero_iff] using hlen
      exact .of_tx (.start _ hidle hq rfl) rfl rfl rfl
  case ucBuild =>
    rcases execUcBuild_cases s with ⟨_, -, hc⟩ | ⟨-, -, hc⟩ <;> obtain rfl := next_inj (hc.symm.trans h)
    · exact .of_eq rfl rfl rfl rfl
    · exact .of_tx (.keep 8 s.tx.txDone s.tx.txbShadow id rfl) rfl rfl rfl
  case ucCheck l =>
    rcases execUcCheck_cases l s with ⟨-, hc⟩ | ⟨-, hc⟩ <;> obtain rfl := next_inj (hc.symm.trans h) <;>
      exact .of_eq rfl rfl rfl rfl
  case palTx =>
    rcases execPalTx_cases s with ⟨-, hc⟩ | ⟨-, _, -, hc⟩ <;> obtain rfl := next_inj (hc.symm.trans h) <;>
      exact .of_eq rfl rfl rfl rfl
  case palSeg => exact (execPalSeg_frame h).hostFrame
  case palAbort => exact (execPalAbort_frame h).hostFrame

theorem execBusRead_hostFrame {a : Addr} {s t : State} (h : execBusRead a s = .next t) : HostFrame s t := by
  obtain ⟨-, hhold, htick, -, -, -, ⟨f, v, -, hurx⟩, ⟨w, htx⟩, -⟩ := execBusRead_frame h
  exact ⟨.keep s.tx.txLen s.tx.txDone w id htx, ⟨_, hhold⟩, ⟨_, f, v, .inl rfl, hurx⟩, .inl htick⟩

theorem writeCtrl_hostFrame (v : Word) (s : State) : HostFrame s (writeCtrl v s) := by
  rw [writeCtrl_eq]
  refine ⟨.refl _, ⟨_, rfl⟩, ?_, .inl rfl⟩
  cases s.rxEn && !v.getLsbD 0
  · exact ⟨_, _, _, .inl rfl, rfl⟩
  · exact ⟨_, _, _, .inr rfl, rfl⟩

theorem writeReg_hostFrame {r : Reg} {v : Word} {s t : State} (hr : r ≠ .cmd) (h : writeReg r v s = .next t) :
    HostFrame s t := by
  rcases writeReg_cases v s hr with ⟨e, -, hc⟩ | ⟨-, hc⟩ | ⟨-, hc⟩ | ⟨-, hc⟩ | ⟨-, hc⟩ | ⟨-, -, hc⟩ | ⟨-, hc⟩ |
    ⟨-, -, hc⟩ | ⟨-, hc⟩ | ⟨-, hc⟩ | ⟨-, -, hc⟩ | ⟨-, -, -, hc⟩ | ⟨-, -, hc⟩ | hc <;>
    obtain rfl := next_inj (hc.symm.trans h)
  -- TXDATA, BAUDDIV, STATUS and CTRL are the registers whose write shows in the frame.
  on_goal 12 => exact .of_tx (.keep (s.tx.txLen + 1) s.tx.txDone s.tx.txbShadow id rfl) rfl rfl rfl
  on_goal 7 => exact ⟨.refl _, ⟨_, rfl⟩, ⟨_, _, _, .inl rfl, rfl⟩, .inr ⟨_, rfl⟩⟩
  on_goal 3 =>
    exact .of_tx (.keep s.tx.txLen _ s.tx.txbShadow (fun hd => (Bool.and_eq_true_iff.mp hd).1) rfl) rfl rfl rfl
  on_goal 2 => exact writeCtrl_hostFrame v s
  all_goals exact .of_eq rfl rfl rfl rfl

/-- A property of the transmitter, the receiver, the hold registers and the bit clock that both resets, every host
access and each engine's own tick keep is kept by every step. -/
theorem step_keeps_of_hostFrame {P : State → Prop}
    (hhost : ∀ {s t}, HostFrame s t → P s → P t)
    (hsoft : ∀ s, P s → P (softReset s))
    (hser : ∀ s, P s → P { s with tx := serializerTick s.tx, tick := { s.tick with txOwed := false } })
    (hsam : ∀ r s, P s → P (samplerTick r { s with tick := { s.tick with rxOwed := none } }))
    (hclk : ∀ r s, P s → P (clockEdge r s))
    (hrst : ∀ s, P s → P (hardReset s))
    {s t : State} (hs : P s) (h : step s = .next t) : P t := by
  refine step_keeps (P := P) (fun s => ?hpop) (fun i s t hi hs h => ?hcmd)
    (fun a s t hs h => hhost (execBusRead_hostFrame h) hs) (fun r v s t hr hs h => hhost (writeReg_hostFrame hr h) hs)
    (fun e s => ?herr) hser hsam hclk hrst hs h
  case hpop => exact hhost (.of_eq (popInput_tx s) (popInput_hold s) (popInput_urx s) (popInput_tick s))
  case hcmd =>
    by_cases hi' : i = .srst
    · subst hi'
      exact next_inj h ▸ hsoft s hs
    · exact hhost (exec_command_hostFrame hi hi' h) hs
  case herr => exact hhost (.of_eq rfl rfl rfl rfl)

/-! ## TX_BUSY -/

theorem transmitSound_congr {s t : State} (h : t.tx = s.tx) (hs : transmitSound s) : transmitSound t := by
  rw [transmitSound, h]; exact hs

theorem transmitSound_of_hostFrame {s t : State} (h : HostFrame s t) (hs : transmitSound s) : transmitSound t := by
  obtain ⟨hbusy, hdone⟩ := hs
  rcases h.tx with ⟨n, d, v, hd, ht⟩ | ⟨hidle, ht⟩ | ⟨q, hidle, hq, ht⟩ <;> rw [transmitSound, ht]
  · refine ⟨hbusy, fun hb => ?_⟩
    have := hdone hb
    cases d <;> simp_all
  · exact ⟨hbusy, fun hb => by simp [hidle] at hb⟩
  · exact ⟨by simp [hq], fun _ => rfl⟩

/-- A bit's tick count that is not at its end goes on below it. -/
theorem succ_lt_ovs {n : Nat} (hlt : n < 16) (hne : n + 1 ≠ Config.ovs) : n + 1 < 16 :=
  lt_of_le_of_ne hlt hne

/-- What the serializer's tick can do: rest in TIDLE, load the next byte (from TIDLE, or at the end of a character,
which TXB counts), end the last character, or go on inside a character, its counters still below their ends
(44_serial.md R302 to R305). -/
theorem serializerTick_cases (t : Transmitter) :
    (t.utxst = .tidle ∧ t.txq = [] ∧ serializerTick t = t) ∨
    (∃ b rest n, t.txq = b :: rest ∧ (n = t.txb ∨ n = satInc64 t.txb) ∧
      serializerTick t = { t with utxB := b, txq := rest, utxCnt := 0, utxst := .tstart, txb := n }) ∨
    (t.utxst = .tstop ∧ t.txq = [] ∧
      serializerTick t = endTx { t with txb := satInc64 t.txb, utxCnt := t.utxCnt + 1, utxst := .tidle }) ∨
    (∃ x c n, t.utxst ≠ .tidle ∧ x ≠ .tidle ∧ (t.utxCnt < 16 → c < 16) ∧
      ((t.utxst = .tdata → t.utxNbit < 8) → x = .tdata → n < 8) ∧
      serializerTick t = { t with utxst := x, utxCnt := c, utxNbit := n }) := by
  unfold serializerTick
  cases hst : t.utxst <;> dsimp only
  case tidle =>
    cases hq : t.txq with
    | nil => exact .inl ⟨rfl, rfl, by simp [loadByte, hq]⟩
    | cons b rest => exact .inr (.inl ⟨b, rest, t.txb, rfl, .inl rfl, by simp [loadByte, hq]⟩)
  case tstart =>
    refine .inr (.inr (.inr ?_))
    split
    · exact ⟨.tdata, 0, 0, nofun, nofun, fun _ => by omega, fun _ _ => by omega, rfl⟩
    · rename_i hc
      exact ⟨.tstart, _, t.utxNbit, nofun, nofun, (succ_lt_ovs · hc), nofun, by rw [← hst]⟩
  case tdata =>
    refine .inr (.inr (.inr ?_))
    split
    · refine ⟨if t.utxNbit + 1 = 8 then .tstop else .tdata, 0, t.utxNbit + 1, nofun, ?_, fun _ => by omega, ?_, rfl⟩
      · split <;> nofun
      · intro hn hx
        have := hn rfl
        split at hx
        · cases hx
        · omega
    · rename_i hc
      exact ⟨.tdata, _, t.utxNbit, nofun, nofun, (succ_lt_ovs · hc), fun hn _ => hn rfl, by rw [← hst]⟩
  case tstop =>
    split
    · cases hq : t.txq with
      | nil => exact .inr (.inr (.inl ⟨rfl, rfl, by simp [endChar, hq]⟩))
      | cons b rest => exact .inr (.inl ⟨b, rest, _, rfl, .inr rfl, by simp [endChar, loadByte, hq]⟩)
    · rename_i hc
      exact .inr (.inr (.inr ⟨.tstop, _, t.utxNbit, nofun, nofun, (succ_lt_ovs · hc), nofun, by rw [← hst]⟩))

/-- The end of a transmission leaves all but TX_BUSY and TX_DONE (44_serial.md R305). -/
theorem endTx_cases (t : Transmitter) :
    (t.txBusy = true ∧ endTx t = { t with txBusy := false, txDone := true }) ∨
    (t.txBusy = false ∧ endTx t = t) := by
  unfold endTx; split <;> simp_all

theorem transmitSound_of_serializerTick {s t : State} (h : t.tx = serializerTick s.tx) (hs : transmitSound s) :
    transmitSound t := by
  obtain ⟨hbusy, hdone⟩ := hs
  rcases serializerTick_cases s.tx with ⟨-, -, ht⟩ | ⟨b, rest, n, hq, -, ht⟩ | ⟨hst, hq, ht⟩ |
    ⟨x, c, n, hst, hx, -, -, ht⟩ <;> rw [transmitSound, h, ht]
  · exact ⟨hbusy, hdone⟩
  · have hb : s.tx.txBusy = true := hbusy.mpr (.inl (by simp [hq]))
    exact ⟨by simp [hb], hdone⟩
  · have hb : s.tx.txBusy = true := hbusy.mpr (.inr (by simp [hst]))
    simp [endTx, hb, hq]
  · have hb : s.tx.txBusy = true := hbusy.mpr (.inr hst)
    exact ⟨by simp [hb, hx], hdone⟩

theorem transmitSound_reset {t : State} (h : t.tx = State.reset.tx) : transmitSound t := by
  simp [transmitSound, h, State.reset]

/-! ## The counters of the serializer, the sampler and the divider -/

theorem HostTx.serializerCounts {a b : Transmitter} (h : HostTx a b) (ha : serializerCounts a) :
    serializerCounts b := by
  rcases h with ⟨n, d, v, -, rfl⟩ | ⟨-, rfl⟩ | ⟨q, -, -, rfl⟩ <;> exact ha

theorem serializerCounts_serializerTick {t : Transmitter} (h : serializerCounts t) :
    serializerCounts (serializerTick t) := by
  obtain ⟨hcnt, hnbit⟩ := h
  rcases serializerTick_cases t with ⟨-, -, ht⟩ | ⟨b, rest, n, -, -, ht⟩ | ⟨-, -, ht⟩ |
    ⟨x, c, n, hst, -, hc, hn, ht⟩ <;> rw [ht]
  · exact ⟨hcnt, hnbit⟩
  · exact ⟨fun _ => by simp, nofun⟩
  · rcases endTx_cases { t with txb := satInc64 t.txb, utxCnt := t.utxCnt + 1, utxst := .tidle } with
      ⟨-, he⟩ | ⟨-, he⟩ <;> rw [he] <;> exact ⟨fun h => absurd rfl h, nofun⟩
  · exact ⟨fun _ => hc (hcnt hst), hn hnbit⟩

/-- In IDLE and in BREAK no counter of the sampler is read. -/
theorem samplerCounts_of_resting {u : Receiver} (h : u.urxst = .idle ∨ u.urxst = .brk) : samplerCounts u := by
  rcases h with h | h <;> simp [samplerCounts, h]

theorem samplerCounts_of_start {u : Receiver} (h : u.urxst = .start) (hc : u.urxCnt < 8) : samplerCounts u := by
  simp [samplerCounts, h, hc]

theorem samplerCounts_of_data {u : Receiver} (h : u.urxst = .data) (hc : u.urxCnt < 16) (hn : u.urxNbit < 8) :
    samplerCounts u := by
  simp [samplerCounts, h, hc, hn]

theorem samplerCounts_of_stop {u : Receiver} (h : u.urxst = .stop) (hc : u.urxCnt < 16) : samplerCounts u := by
  simp [samplerCounts, h, hc]

theorem samplerCounts_of_hostFrame {s t : State} (h : HostFrame s t) (hs : samplerCounts s.urx) :
    samplerCounts t.urx := by
  obtain ⟨x, f, v, rfl | rfl, hu⟩ := h.urx <;> rw [hu]
  · exact hs
  · exact samplerCounts_of_resting (.inl rfl)

theorem samplerCounts_samplerTick (r : Bool) {s : State} (h : samplerCounts s.urx) :
    samplerCounts (samplerTick r s).urx := by
  have ⟨hstart, hdata, hstop⟩ := h
  unfold samplerTick
  split
  · exact samplerCounts_of_resting (.inl rfl)
  · cases hst : s.urx.urxst <;> dsimp only
    case idle =>
      split
      · exact h
      · simp [samplerCounts]
    case start =>
      have hc := hstart hst
      split
      · split
        · exact samplerCounts_of_resting (.inl rfl)
        · exact samplerCounts_of_data rfl (by simp) (by simp)
      · exact samplerCounts_of_start hst (by dsimp only; omega)
    case data =>
      obtain ⟨hc, hn⟩ := hdata hst
      split
      · by_cases h8 : s.urx.urxNbit + 1 = 8
        · exact samplerCounts_of_stop (if_pos h8) (by simp)
        · exact samplerCounts_of_data (if_neg h8) (by simp) (by dsimp only; omega)
      · exact samplerCounts_of_data hst (succ_lt_ovs hc ‹_›) hn
    case stop =>
      have hc := hstop hst
      split
      · split
        · exact samplerCounts_of_resting (.inl rfl)
        · exact samplerCounts_of_resting (.inr rfl)
      · exact samplerCounts_of_stop hst (succ_lt_ovs hc ‹_›)
    case brk =>
      split
      · exact samplerCounts_of_resting (.inl rfl)
      · exact h

theorem dividerInRange_of_hostFrame {s t : State} (h : HostFrame s t) (hs : dividerInRange s) : dividerInRange t := by
  rcases h.tick with ht | ⟨d, ht⟩ <;> rw [dividerInRange, ht]
  · exact hs
  · simp

theorem dividerInRange_clockEdge (r : Bool) {s : State} (hs : dividerInRange s) : dividerInRange (clockEdge r s) := by
  unfold dividerInRange at hs
  rw [dividerInRange, clockEdge_tick]
  split
  · simp
  · rename_i hne
    bv_omega

/-- The three counter ranges together. -/
def countersInRange (s : State) : Prop := serializerCounts s.tx ∧ samplerCounts s.urx ∧ dividerInRange s

theorem countersInRange_of_reset {t : State} (htx : t.tx = State.reset.tx) (hurx : t.urx = State.reset.urx)
    (hdv : t.tick.dv = 0) : countersInRange t := by
  refine ⟨?_, samplerCounts_of_resting (.inl (by rw [hurx]; rfl)), ?_⟩
  · simp [htx, serializerCounts, State.reset]
  · simp [dividerInRange, hdv]

end Sys2Proof.Machine

namespace Sys2Proof.Proofs
open Sys2Proof.Machine

/-- Settles O55: a transmission starts only with bytes, from an idle serializer, and TX_BUSY falls only with the last
one's stop bit. -/
theorem stepKeepsTransmitSound : Obligations.StepKeepsTransmitSound := by
  intro s t hs h
  exact step_keeps_of_hostFrame (P := transmitSound) transmitSound_of_hostFrame
    (fun s _ => transmitSound_reset (softReset_tx s))
    (fun s => transmitSound_of_serializerTick rfl)
    (fun r s => transmitSound_congr (samplerTick_frame r { s with tick := { s.tick with rxOwed := none } }).tx)
    (fun r s => transmitSound_congr (clockEdge_tx r s))
    (fun s _ => transmitSound_reset (hardReset_tx s)) hs h

/-- Settles O56: each engine's own tick keeps its counters below their ends, and a host access only idles the sampler
or restarts the divider. -/
theorem stepKeepsCountersInRange : Obligations.StepKeepsCountersInRange := by
  intro s t htx hurx hdv h
  refine step_keeps_of_hostFrame (P := countersInRange) ?hhost
    (fun s _ => countersInRange_of_reset (softReset_tx s) (softReset_urx s) (by simp [State.reset]))
    (fun s ⟨htx, hurx, hdv⟩ => ⟨serializerCounts_serializerTick htx, hurx, hdv⟩) ?hsam ?hclk
    (fun s _ => countersInRange_of_reset (hardReset_tx s) (hardReset_urx s) (by simp [State.reset]))
    ⟨htx, hurx, hdv⟩ h
  case hhost =>
    intro s t hf ⟨htx, hurx, hdv⟩
    exact ⟨hf.tx.serializerCounts htx, samplerCounts_of_hostFrame hf hurx, dividerInRange_of_hostFrame hf hdv⟩
  case hsam =>
    intro r s ⟨htx, hurx, hdv⟩
    have hf := samplerTick_frame r { s with tick := { s.tick with rxOwed := none } }
    refine ⟨by rw [hf.tx]; exact htx, samplerCounts_samplerTick r hurx, ?_⟩
    rw [dividerInRange, hf.tick]
    exact hdv
  case hclk =>
    intro r s ⟨htx, hurx, hdv⟩
    exact ⟨by rwa [clockEdge_tx], by rwa [clockEdge_urx], dividerInRange_clockEdge r hdv⟩

end Sys2Proof.Proofs
end

section
/-! PROOFS. A host access by its address: which one is SRST and which one writes ERR; and from it that ERR is sticky
(10_state.md R25) and that the counters never decrease (10_state.md R47, R48). -/

namespace Sys2Proof.Machine

/-- A register is named by no address but its own (10_state.md R22). -/
theorem toNat_of_target_reg {a : Addr} {r : Reg} {k : Nat} (h : target a = .reg r) (hk : regMap[k]? = some r) :
    a.toNat = 4 * k := by
  have hnodup : regMap.Nodup := by decide
  unfold target at h
  split at h
  · cases h
  rename_i hmap
  split at h
  · split at h
    · rename_i r' hr'
      obtain rfl : r' = r := Target.reg.inj h
      have hi : a.toNat / 4 = k :=
        (List.getElem?_inj (List.getElem?_eq_some_iff.mp hr').1 hnodup).mp (hr'.trans hk.symm)
      have halign : a.toNat % 4 = 0 := by simp_all [unmapped]
      omega
    · cases h
  · (repeat' split at h) <;> cases h

theorem eq_cmdAddr_of_target {a : Addr} (h : target a = .reg .cmd) : a = 0x0010 :=
  BitVec.eq_of_toNat_eq (toNat_of_target_reg (k := 4) h rfl)

theorem eq_errAddr_of_target {a : Addr} (h : target a = .reg .err) : a = 0x0008 :=
  BitVec.eq_of_toNat_eq (toNat_of_target_reg (k := 2) h rfl)

/-- SRST has one command word (30_encoding.md R105). -/
theorem eq_srstWord_of_decodeCmd {v : Word} (h : decodeCmd v = .ok .srst) : v = 0x01000000 := by
  rcases decodeCmd_cases v with ⟨r, hr, hsel, hd⟩ | ⟨-, hd⟩
  · have hb : r.build v = .srst := Except.ok.inj (hd.symm.trans h)
    have hrow : r.mask = 0xFFFFFFFF ∧ r.pattern = 0x01000000 := by
      simp only [cmdTable, List.mem_cons, List.not_mem_nil, or_false] at hr
      rcases hr with rfl | rfl | rfl | rfl | rfl | rfl | rfl | rfl | rfl | rfl | rfl | rfl | rfl | rfl | rfl | rfl <;>
        simp at hb ⊢
    obtain ⟨hmask, hpattern⟩ := hrow
    rw [CmdRow.selects, beq_iff_eq, hmask, hpattern] at hsel
    exact BitVec.and_allOnes.symm.trans hsel
  · cases hd.symm.trans h

/-- What a host access can be: SRST's word written to CMD, another command, a read, a write of another register, or an
access that at most sets a bit of ERR. -/
theorem hostAccess_cases {acc : BusAccess} {s t : State} (h : exec (decode acc) s = .next t) :
    acc = .write 0x0010 0x01000000 ∨
    (∃ i, (encodeCmd i).isSome = true ∧ i ≠ .srst ∧ exec i s = .next t) ∨
    (∃ a, execBusRead a s = .next t) ∨
    (∃ a r v, acc = .write a v ∧ target a = .reg r ∧ r ≠ .cmd ∧ writeReg r v s = .next t) ∨
    t = s ∨ ∃ e, t = flagErr e s := by
  have hcmd {v : Word} {i : Instr} (hacc : acc = .write 0x0010 v) (hi : decodeCmd v = .ok i)
      (h : exec i s = .next t) : acc = .write 0x0010 0x01000000 ∨
        ∃ i, (encodeCmd i).isSome = true ∧ i ≠ .srst ∧ exec i s = .next t := by
    by_cases hs : i = .srst
    · subst hs
      exact .inl (by rw [hacc, eq_srstWord_of_decodeCmd hi])
    · exact .inr ⟨i, decodeCmd_isCommand hi, hs, h⟩
  rcases decode_cases acc with ⟨a, -, hd⟩ | ⟨a, v, hacc, hd⟩ | ⟨v, i, hacc, hi, hd⟩ <;> rw [hd] at h
  · exact .inr (.inr (.inl ⟨a, h⟩))
  · have h' : execBusWrite a v s = .next t := h
    rcases execBusWrite_cases a v s with ⟨-, hc⟩ | ⟨_, _, -, hc⟩ | ⟨-, hc⟩ | ⟨i, ha, hi, -, hc⟩ | ⟨r, hr, ha, hc⟩ <;>
      rw [hc] at h'
    · exact .inr (.inr (.inr (.inr (.inr ⟨_, (next_inj h').symm⟩))))
    · exact .inr (.inr (.inr (.inr (.inl (next_inj h').symm))))
    · exact .inr (.inr (.inr (.inr (.inr ⟨_, (next_inj h').symm⟩))))
    · exact (hcmd (eq_cmdAddr_of_target ha ▸ hacc) hi h').imp_right .inl
    · exact .inr (.inr (.inr (.inl ⟨a, r, v, hacc, ha, hr, h'⟩)))
  · exact (hcmd hacc hi h).imp_right .inl

/-! ## ERR -/

theorem writeReg_err {r : Reg} {v : Word} {s t : State} (hr : r ≠ .cmd) (h : writeReg r v s = .next t) :
    (r = .err ∧ t = writeErr v s) ∨ ∃ m, t.regs.err = s.regs.err ||| m := by
  have hsame {t : State} (h : t.regs.err = s.regs.err) : ∃ m, t.regs.err = s.regs.err ||| m := ⟨0, by simp [h]⟩
  rcases writeReg_cases v s hr with ⟨e, -, hc⟩ | ⟨-, hc⟩ | ⟨-, hc⟩ | ⟨he, hc⟩ | ⟨-, hc⟩ | ⟨-, -, hc⟩ | ⟨-, hc⟩ |
    ⟨-, -, hc⟩ | ⟨-, hc⟩ | ⟨-, hc⟩ | ⟨-, -, hc⟩ | ⟨-, -, -, hc⟩ | ⟨-, -, hc⟩ | hc <;>
    obtain rfl := next_inj (hc.symm.trans h)
  on_goal 4 => exact .inl ⟨he, rfl⟩
  on_goal 2 => exact .inr (hsame (by rw [writeCtrl_eq]))
  on_goal 1 => exact .inr ⟨e.mask, rfl⟩
  all_goals exact .inr (hsame rfl)

/-- A host access clears a bit of ERR only as SRST or as a write of ERR (45_control.md R344). -/
theorem hostAccess_err {acc : BusAccess} {s t : State} (h : exec (decode acc) s = .next t) :
    acc = .write 0x0010 0x01000000 ∨ (∃ v, acc = .write 0x0008 v ∧ t = writeErr v s) ∨
      ∃ m, t.regs.err = s.regs.err ||| m := by
  rcases hostAccess_cases h with hacc | ⟨i, hi, hs, hc⟩ | ⟨a, hc⟩ | ⟨a, r, v, hacc, ha, hr, hc⟩ | rfl | ⟨e, rfl⟩
  · exact .inl hacc
  · exact .inr (.inr (exec_command_frame hi hs hc).err)
  · obtain ⟨-, -, -, -, -, -, -, -, m, hm⟩ := execBusRead_frame hc
    exact .inr (.inr ⟨m, by rw [hm]⟩)
  · rcases writeReg_err hr hc with ⟨rfl, ht⟩ | hm
    · exact .inr (.inl ⟨v, eq_errAddr_of_target ha ▸ hacc, ht⟩)
    · exact .inr (.inr hm)
  · exact .inr (.inr ⟨0, by simp⟩)
  · exact .inr (.inr ⟨e.mask, rfl⟩)

theorem samplerStep_errGrows (s : State) : errGrows s (samplerStep s) := by
  rcases samplerStep_cases s with ⟨r, -, h⟩ | ⟨-, h⟩ <;> rw [h]
  · exact (samplerTick_frame r { s with tick := { s.tick with rxOwed := none } }).err
  · exact errGrows_refl s

/-- ERR bit `k` is still set if it was. -/
def keepsErrBit (k : Nat) (s t : State) : Prop := s.regs.err.getLsbD k = true → t.regs.err.getLsbD k = true

theorem keepsErrBit_of_or {k : Nat} {s t : State} {m : BitVec 15} (h : t.regs.err = s.regs.err ||| m) :
    keepsErrBit k s t := by
  intro hk
  simp [h, hk]

theorem errGrows.keepsErrBit {k : Nat} {s t : State} (h : errGrows s t) : keepsErrBit k s t := by
  obtain ⟨m, hm⟩ := h
  exact keepsErrBit_of_or (m := m) (by rw [hm])

/-- A write of ERR clears only the bits that are 1 in its data. -/
theorem keepsErrBit_writeErr {k : Nat} {v : Word} (s : State) (hv : v.getLsbD k = false) :
    keepsErrBit k s (writeErr v s) := by
  intro hk
  have hlt : k < 15 := BitVec.lt_of_getLsbD hk
  simp [writeErr, hk, hv, hlt]

end Sys2Proof.Machine

namespace Sys2Proof.Proofs
open Sys2Proof.Machine

/-- Settles O49: the engines only set bits of ERR, and of the host's accesses only SRST and a write of ERR clear any. -/
theorem errBitsAreSticky : Obligations.ErrBitsAreSticky := by
  intro s t k h hk
  rcases step_cases h with ⟨acc, hin, h⟩ | (rfl | rfl) | (rfl | rfl) | ⟨r, rfl⟩ | ⟨hin, -⟩
  · rcases hostAccess_err h with rfl | ⟨v, rfl, rfl⟩ | ⟨m, hm⟩
    · exact .inr (.inr (.inl hin))
    · cases hv : v.getLsbD k with
      | false => exact .inl (keepsErrBit_writeErr _ hv (by simpa using hk))
      | true => exact .inr (.inr (.inr ⟨v, hin, hv⟩))
    · exact .inl (keepsErrBit_of_or (s := s) (by rw [hm, popInput_regs]) hk)
  · exact .inl (by simpa using hk)
  · exact .inl (by simpa using hk)
  · exact .inl ((samplerStep_errGrows s).keepsErrBit hk)
  · exact .inl ((samplerStep_errGrows s.popInput).keepsErrBit (by simpa using hk))
  · exact .inl (by simpa using hk)
  · exact .inr (.inl hin)

end Sys2Proof.Proofs

namespace Sys2Proof.Machine

/-! ## The counters -/

theorem toNat_le_add_one {n : Nat} {v : BitVec n} (h : v ≠ BitVec.allOnes n) : v.toNat ≤ (v + 1).toNat := by
  have hne : v.toNat ≠ 2 ^ n - 1 := fun he => h (BitVec.eq_of_toNat_eq (by simpa using he))
  have hlt : v.toNat + 1 < 2 ^ n := by have := v.isLt; omega
  have heq : (v + 1).toNat = v.toNat + 1 := by simp [BitVec.toNat_add, Nat.mod_eq_of_lt hlt]
  omega

theorem le_satInc64 (v : BitVec 64) : v.toNat ≤ (satInc64 v).toNat := by
  unfold satInc64
  split
  · exact le_rfl
  · exact toNat_le_add_one ‹_›

theorem le_satInc16 (v : BitVec 16) : v.toNat ≤ (satInc16 v).toNat := by
  unfold satInc16
  split
  · exact le_rfl
  · exact toNat_le_add_one ‹_›

/-- Neither byte counter and neither frame counter of `t` is below that of `s`. -/
structure CountersLe (s t : State) : Prop where
  rxb : s.urx.rxb.toNat ≤ t.urx.rxb.toNat
  txb : s.tx.txb.toNat ≤ t.tx.txb.toNat
  badframe : s.hold.cntBadframe.toNat ≤ t.hold.cntBadframe.toNat
  overrun : s.hold.cntOverrun.toNat ≤ t.hold.cntOverrun.toNat

theorem CountersLe.trans {s t u : State} (h : CountersLe s t) (h' : CountersLe t u) : CountersLe s u :=
  ⟨h.rxb.trans h'.rxb, h.txb.trans h'.txb, h.badframe.trans h'.badframe, h.overrun.trans h'.overrun⟩

theorem CountersLe.of_eq {s t : State} (hurx : t.urx = s.urx) (htx : t.tx = s.tx) (hhold : t.hold = s.hold) :
    CountersLe s t := by
  constructor <;> simp [hurx, htx, hhold]

theorem CountersLe.refl (s : State) : CountersLe s s := .of_eq rfl rfl rfl

theorem CountersLe.popInput (s : State) : CountersLe s s.popInput :=
  .of_eq (popInput_urx s) (popInput_tx s) (popInput_hold s)

theorem HostFrame.countersLe {s t : State} (h : HostFrame s t) : CountersLe s t := by
  obtain ⟨x, f, v, -, hurx⟩ := h.urx
  obtain ⟨b, hhold⟩ := h.hold
  have htxb : t.tx.txb = s.tx.txb := by
    rcases h.tx with ⟨n, d, v, -, ht⟩ | ⟨-, ht⟩ | ⟨q, -, -, ht⟩ <;> rw [ht]
  constructor <;> simp [hurx, hhold, htxb]

/-- A host access that is not SRST stays inside the host's frame. -/
theorem hostAccess_hostFrame {acc : BusAccess} {s t : State} (h : exec (decode acc) s = .next t) :
    acc = .write 0x0010 0x01000000 ∨ HostFrame s t := by
  rcases hostAccess_cases h with hacc | ⟨i, hi, hs, hc⟩ | ⟨a, hc⟩ | ⟨a, r, v, -, -, hr, hc⟩ | rfl | ⟨e, rfl⟩
  · exact .inl hacc
  · exact .inr (exec_command_hostFrame hi hs hc)
  · exact .inr (execBusRead_hostFrame hc)
  · exact .inr (writeReg_hostFrame hr hc)
  · exact .inr (.of_eq rfl rfl rfl rfl)
  · exact .inr (.of_eq rfl rfl rfl rfl)

theorem le_txb_serializerTick (t : Transmitter) : t.txb.toNat ≤ (serializerTick t).txb.toNat := by
  rcases serializerTick_cases t with ⟨-, -, ht⟩ | ⟨b, rest, n, -, rfl | rfl, ht⟩ | ⟨-, -, ht⟩ |
    ⟨x, c, n, -, -, -, -, ht⟩ <;> rw [ht]
  · exact le_satInc64 t.txb
  · rcases endTx_cases { t with txb := satInc64 t.txb, utxCnt := t.utxCnt + 1, utxst := .tidle } with
      ⟨-, he⟩ | ⟨-, he⟩ <;> rw [he] <;> exact le_satInc64 t.txb

theorem countersLe_serializerStep (s : State) : CountersLe s (serializerStep s) := by
  rcases serializerStep_cases s with ⟨-, h⟩ | ⟨-, h⟩ <;> rw [h]
  · exact ⟨le_rfl, le_txb_serializerTick s.tx, le_rfl, le_rfl⟩
  · exact .refl s

theorem countersLe_dropFrame (e : Err) (s : State) : CountersLe s (dropFrame e s) :=
  ⟨le_rfl, le_rfl, le_satInc16 _, le_rfl⟩

theorem countersLe_hunt (b : Byte) (s : State) : CountersLe s (hunt b s) := by
  obtain ⟨hf, hhold, hurx, -, -⟩ := hunt_frame b s
  exact .of_eq hurx hf.tx hhold

theorem countersLe_drop (e : Err) (b : Byte) (s : State) : CountersLe s (drop e b s) :=
  (countersLe_dropFrame e s).trans (countersLe_hunt b _)

theorem countersLe_accept (s : State) : CountersLe s (accept s) := by
  rcases accept_cases s with ⟨-, h⟩ | ⟨-, h⟩ <;> rw [h]
  · exact ⟨le_rfl, le_rfl, le_rfl, le_satInc16 _⟩
  · exact ⟨le_rfl, le_rfl, le_rfl, le_rfl⟩

theorem countersLe_deframe (b : Byte) (s : State) : CountersLe s (deframe b s) := by
  have hdf (d : Deframer) : CountersLe s { s with df := d } := .of_eq rfl rfl rfl
  unfold deframe
  cases s.df.rxst <;> dsimp only
  case hunt => exact countersLe_hunt b s
  case len =>
    unfold stepLen
    dsimp only
    split
    · split
      · exact (hdf _).trans (countersLe_drop _ b _)
      · exact hdf _
    · exact hdf _
  case instr =>
    unfold stepInstr
    dsimp only
    split <;> exact hdf _
  case pay => exact .of_eq rfl rfl rfl
  case chk =>
    unfold stepChk
    split <;> exact hdf _
  case endm =>
    unfold stepEnd
    split
    · exact countersLe_drop _ b s
    · split
      · exact countersLe_drop _ b s
      · exact (countersLe_accept s).trans (.of_eq rfl rfl rfl)

theorem countersLe_pushRaw (b : Byte) (s : State) : CountersLe s (pushRaw b s) := by
  unfold pushRaw
  split <;> exact ⟨le_rfl, le_rfl, le_rfl, le_rfl⟩

theorem countersLe_receiveByte (b : Byte) (s : State) : CountersLe s (receiveByte b s) := by
  have hcount : CountersLe s { s with urx := { s.urx with rxb := satInc64 s.urx.rxb } } :=
    ⟨le_satInc64 _, le_rfl, le_rfl, le_rfl⟩
  unfold receiveByte deliver
  split
  · exact hcount.trans (countersLe_pushRaw b _)
  · exact hcount.trans (countersLe_deframe b _)

theorem countersLe_receiveFramingError (s : State) : CountersLe s (receiveFramingError s) := by
  have hflag : CountersLe s (flagErr .uartfe s) := .of_eq rfl rfl rfl
  unfold receiveFramingError deframeFramingError
  split
  · exact hflag
  · split
    · exact hflag
    · exact hflag.trans (countersLe_dropFrame _ _)

theorem countersLe_samplerTick (r : Bool) (s : State) : CountersLe s (samplerTick r s) := by
  have hcnt : CountersLe s { s with urx := { s.urx with urxCnt := s.urx.urxCnt + 1 } } :=
    ⟨le_rfl, le_rfl, le_rfl, le_rfl⟩
  have hset (x : UrxState) (u : State) : CountersLe u (setUrxst x u) := ⟨le_rfl, le_rfl, le_rfl, le_rfl⟩
  rcases samplerTick_cases r s with ⟨u, -, hrxb, -, h⟩ | ⟨-, -, -, -, h⟩ | ⟨-, -, -, -, h⟩ <;> rw [h]
  · exact ⟨by simp [hrxb], le_rfl, le_rfl, le_rfl⟩
  · exact (hcnt.trans (countersLe_receiveByte _ _)).trans (hset _ _)
  · exact (hcnt.trans (countersLe_receiveFramingError _)).trans (hset _ _)

theorem countersLe_samplerStep (s : State) : CountersLe s (samplerStep s) := by
  have htick : CountersLe s { s with tick := { s.tick with rxOwed := none } } := .of_eq rfl rfl rfl
  rcases samplerStep_cases s with ⟨r, -, h⟩ | ⟨-, h⟩ <;> rw [h]
  · exact htick.trans (countersLe_samplerTick r _)
  · exact .refl s

theorem countersLe_clockEdge (r : Bool) (s : State) : CountersLe s (clockEdge r s) :=
  .of_eq (clockEdge_urx r s) (clockEdge_tx r s) (clockEdge_hold r s)

/-- Every step but the two resets keeps the counters or raises them. -/
theorem step_countersLe {s t : State} (h : step s = .next t) :
    CountersLe s t ∨ s.nextInput = .rstN ∨ s.nextInput = .host (.write 0x0010 0x01000000) := by
  have hpop := CountersLe.popInput s
  rcases step_cases h with ⟨acc, hin, h⟩ | (rfl | rfl) | (rfl | rfl) | ⟨r, rfl⟩ | ⟨hin, -⟩
  · rcases hostAccess_hostFrame h with rfl | hf
    · exact .inr (.inr hin)
    · exact .inl (hpop.trans hf.countersLe)
  · exact .inl (countersLe_serializerStep s)
  · exact .inl (hpop.trans (countersLe_serializerStep _))
  · exact .inl (countersLe_samplerStep s)
  · exact .inl (hpop.trans (countersLe_samplerStep _))
  · exact .inl (hpop.trans (countersLe_clockEdge r _))
  · exact .inr (.inl hin)

end Sys2Proof.Machine

namespace Sys2Proof.Proofs
open Sys2Proof.Machine

/-- Settles O50: the saturating counts are the only writes of the counters outside the two resets. -/
theorem countersNeverDecrease : Obligations.CountersNeverDecrease := fun _ _ h =>
  (step_countersLe h).imp_left fun hle => ⟨hle.rxb, hle.txb, hle.badframe, hle.overrun⟩

end Sys2Proof.Proofs
end

section
/-! PROOFS. STATUS as a sum of its fields, and the fields read back from it (10_state.md R24). -/

namespace Sys2Proof.Machine

theorem toNat_append_eq_add {m n : Nat} (x : BitVec m) (y : BitVec n) :
    (x ++ y).toNat = x.toNat * 2 ^ n + y.toNat := by
  rw [BitVec.toNat_append, ← Nat.shiftLeft_add_eq_or_of_lt y.isLt, Nat.shiftLeft_eq]

theorem getLsbD_eq_of_toNat {n k : Nat} {w : BitVec n} {b : Bool} (h : w.toNat / 2 ^ k % 2 = b.toNat) :
    w.getLsbD k = b := by
  rw [BitVec.getLsbD, Nat.testBit_eq_decide_div_mod_eq, h]
  cases b <;> rfl

/-- STATUS is the sum of its fields, each at its place. -/
theorem statusWord_toNat (s : State) : s.statusWord.toNat =
    s.hold.rxFull.toNat + 2 * s.tx.txBusy.toNat + 4 * s.tx.txDone.toNat + 8 * s.palBusy.toNat
      + 16 * s.pal.palDone.toNat + 32 * s.pal.palOk.toNat + 64 * s.regs.ucOk.toNat + 128 * s.rawAvail.toNat
      + 256 * s.df.rxst.code.toNat + 2048 * s.urx.urxst.code.toNat + 16384 * s.tx.utxst.code.toNat
      + 65536 * s.de.toNat := by
  have hzero : (0 : BitVec 15).toNat = 0 := rfl
  simp only [State.statusWord, toNat_append_eq_add, bit, BitVec.toNat_ofBool, hzero]
  omega

theorem palBusy_eq (s : State) : s.palBusy = decide (s.pal.keys ≠ 0) := by
  rw [Bool.eq_iff_iff]
  simp [State.palBusy]

theorem rawAvail_eq (s : State) : s.rawAvail = decide (s.urx.rawFifo ≠ []) := by
  cases h : s.urx.rawFifo <;> simp [State.rawAvail, h]

end Sys2Proof.Machine

namespace Sys2Proof.Proofs
open Sys2Proof.Machine

/-- Settles O40: the bits and the three codes are the binary places of STATUS read as a sum. -/
theorem statusFields : Obligations.StatusFields := by
  intro s w
  have hw : w.toNat = _ := statusWord_toNat s
  have := s.hold.rxFull.toNat_lt
  have := s.tx.txBusy.toNat_lt
  have := s.tx.txDone.toNat_lt
  have := s.palBusy.toNat_lt
  have := s.pal.palDone.toNat_lt
  have := s.pal.palOk.toNat_lt
  have := s.regs.ucOk.toNat_lt
  have := s.rawAvail.toNat_lt
  have := s.de.toNat_lt
  have := s.df.rxst.code.isLt
  have := s.urx.urxst.code.isLt
  have := s.tx.utxst.code.isLt
  rw [← palBusy_eq, ← rawAvail_eq]
  refine ⟨?_, ?_, ?_, ?_, ?_, ?_, ?_, ?_, ?rx, ?urx, ?utx, ?_, rfl, by omega⟩
  case rx =>
    have hf : w.toNat / 2 ^ 8 % 8 = s.df.rxst.code.toNat := by omega
    rw [hf]; cases s.df.rxst <;> rfl
  case urx =>
    have hf : w.toNat / 2 ^ 11 % 8 = s.urx.urxst.code.toNat := by omega
    rw [hf]; cases s.urx.urxst <;> rfl
  case utx =>
    have hf : w.toNat / 2 ^ 14 % 4 = s.tx.utxst.code.toNat := by omega
    rw [hf]; cases s.tx.utxst <;> rfl
  all_goals exact getLsbD_eq_of_toNat (by omega)

end Sys2Proof.Proofs
end

section
/-! PROOFS. A bus address by what it names (20_memory.md R72, R74): a buffer's window, a register, or nothing; and from
it the window accesses and the three reads with a side effect (R80). -/

namespace Sys2Proof.Machine

theorem unmapped_iff (a : Addr) : unmapped a = true ↔
    a.toNat % 4 ≠ 0 ∨ (0x007C ≤ a.toNat ∧ a.toNat ≤ 0x0FFF) ∨ 0x5020 ≤ a.toNat := by
  simp [unmapped, or_assoc]

/-- An address that is not unmapped names a register or a byte of a window: the register map has no hole. -/
theorem target_eq_unmapped_iff (a : Addr) : target a = .unmapped ↔ unmapped a = true := by
  unfold target
  split
  · rename_i hun
    simp [hun]
  rename_i hmap
  have hlen : regMap.length = 31 := rfl
  rw [unmapped_iff] at hmap
  split
  · rw [List.getElem?_eq_getElem (show a.toNat / 4 < regMap.length by omega)]
    simp [unmapped_iff, hmap]
  · (repeat' split) <;> simp [unmapped_iff, hmap]

/-- Entry `i` of a buffer's window is byte `i` of the buffer. -/
theorem target_window {b : Buffer} {base size i : Nat}
    (hwin : (b, base, size) ∈ [(.txbuf, 0x1000, 1024), (.rxbuf, 0x2000, 1024), (.segbuf, 0x3000, 1024),
                               (.palbuf, 0x4000, 1024), (.canbuf, 0x5000, 8)]) (hi : i < size) :
    target (BitVec.ofNat 16 (base + 4 * i)) = .window b i := by
  simp only [List.mem_cons, Prod.mk.injEq, List.not_mem_nil, or_false] at hwin
  have hbound : 0x1000 ≤ base ∧ base % 4 = 0 ∧ base + 4 * i < 0x5020 := by omega
  have haddr : (BitVec.ofNat 16 (base + 4 * i)).toNat = base + 4 * i := by
    rw [BitVec.toNat_ofNat, Nat.mod_eq_of_lt (by omega)]
  have hmap : ¬ unmapped (BitVec.ofNat 16 (base + 4 * i)) = true := by
    rw [unmapped_iff, haddr]; omega
  rw [target, if_neg hmap, haddr, if_neg (by omega)]
  rcases hwin with ⟨rfl, rfl, rfl⟩ | ⟨rfl, rfl, rfl⟩ | ⟨rfl, rfl, rfl⟩ | ⟨rfl, rfl, rfl⟩ | ⟨rfl, rfl, rfl⟩ <;>
    (repeat' split) <;> simp <;> omega

theorem exec_busRead_unmapped {a : Addr} (h : target a = .unmapped) (s : State) :
    exec (.busRead a) s = .next (setRdata 0 (flagErr .badaddr s)) := by
  simp [exec, execBusRead, h]

theorem exec_busWrite_unmapped {a : Addr} (h : target a = .unmapped) (v : Word) (s : State) :
    exec (.busWrite a v) s = .next (flagErr .badaddr s) := by
  simp [exec, execBusWrite, h]

theorem exec_busRead_window {a : Addr} {b : Buffer} {i : Nat} (h : target a = .window b i) (s : State) :
    exec (.busRead a) s = .next (setRdata ((s.byte b i).setWidth 32) s) := by
  simp [exec, execBusRead, h]

theorem exec_busWrite_window {a : Addr} {b : Buffer} {i : Nat} (h : target a = .window b i) (v : Word) (s : State) :
    exec (.busWrite a v) s = .next s := by
  simp [exec, execBusWrite, h]

theorem exec_busRead_reg {a : Addr} {r : Reg} (h : target a = .reg r) (s : State) :
    exec (.busRead a) s = .next (setRdata (readValue r s) (readEffect r s)) := by
  simp [exec, execBusRead, h]

/-- A pop of the empty raw FIFO does nothing (10_state.md R39). -/
theorem readEffect_rawdata_of_empty {s : State} (h : s.urx.rawFifo = []) : readEffect .rawdata s = s := by
  have htail : s.urx.rawFifo.tail = s.urx.rawFifo := by rw [h]; rfl
  rw [readEffect, htail]

theorem readValue_rawdata_cons {s : State} {b : Byte} {rest : List Byte} (h : s.urx.rawFifo = b :: rest) :
    readValue .rawdata s = BitVec.ofNat 32 (0x100 + b.toNat) := by
  have hb := b.isLt
  have hzero : (0 : BitVec 23).toNat = 0 := rfl
  have hone : (1 : BitVec 1).toNat = 1 := rfl
  apply BitVec.eq_of_toNat_eq
  simp only [readValue, h, toNat_append_eq_add, hzero, hone, BitVec.toNat_ofNat]
  omega

theorem extractLsb'_low_eq_ofNat (x : BitVec 64) : x.extractLsb' 0 32 = BitVec.ofNat 32 x.toNat := by
  simp [BitVec.extractLsb']

theorem extractLsb'_high_eq_ofNat (x : BitVec 64) :
    x.extractLsb' 32 32 = BitVec.ofNat 32 (x.toNat / 2 ^ 32) := by
  simp [BitVec.extractLsb', Nat.shiftRight_eq_div_pow]

end Sys2Proof.Machine

namespace Sys2Proof.Proofs
open Sys2Proof.Machine

/-- Settles O39: the value and the effect of each of the three registers, the 64-bit halves read as quotients. -/
theorem readSideEffects : Obligations.ReadSideEffects := by
  refine fun s => ⟨fun hempty => ?_, fun b rest hcons => ?_, ?_, ?_⟩
  · rw [exec_busRead_reg (r := .rawdata) rfl, readEffect_rawdata_of_empty hempty]
    simp only [readValue, hempty]
    rfl
  · rw [exec_busRead_reg (r := .rawdata) rfl, readValue_rawdata_cons hcons, readEffect, hcons]
    rfl
  · rw [exec_busRead_reg (r := .rxbytesLo) rfl, readValue, readEffect, extractLsb'_low_eq_ofNat,
      extractLsb'_high_eq_ofNat]
    rfl
  · rw [exec_busRead_reg (r := .txbytesLo) rfl, readValue, readEffect, extractLsb'_low_eq_ofNat,
      extractLsb'_high_eq_ofNat]
    rfl

/-- Settles O41: each entry of a window names its own byte. -/
theorem windowsShowBuffers : Obligations.WindowsShowBuffers := fun s v _ _ _ hwin _ hi =>
  ⟨exec_busRead_window (target_window hwin hi) s, exec_busWrite_window (target_window hwin hi) v s⟩

end Sys2Proof.Proofs
end

section
/-! PROOFS. What an instruction keeps of the buffers it does not own, and of BADADDR: which accesses set it
(20_memory.md R74), and which own each buffer (R73, R90). -/

namespace Sys2Proof.Machine

/-- The instructions that own each buffer (20_memory.md R90, 10_state.md R42); RXBUF and ASM are the deframer's. -/
def owns (i : Instr) : Buffer → Prop
  | .txbuf => i = .ucBuild ∨ ∃ v, i = .busWrite 0x0030 v
  | .segbuf => i = .palTx
  | .palbuf => i = .palSeg
  | .canbuf => ∃ v, i = .busWrite 0x0040 v
  | .rxbuf | .asm => False
  | .segd | .segl => i = .palSeg ∨ i = .srst

/-- Every other kind of error leaves a clear BADADDR clear (60_exceptions.md R401). -/
theorem badaddr_clear_or {e : Err} (he : e ≠ .badaddr) {x : BitVec 15} (hx : x.getLsbD 5 = false) :
    (x ||| e.mask).getLsbD 5 = false := by
  have hmask : e.mask.getLsbD 5 = false := by
    revert he; cases e <;> decide
  rw [BitVec.getLsbD_or, hx, hmask]; rfl

/-- The buffers an instruction does not own keep their bytes, and it does not set BADADDR. -/
structure OwnerFrame (i : Instr) (s t : State) : Prop where
  byte : ∀ b, owns i b ∨ ∀ j, t.byte b j = s.byte b j
  badaddr : s.regs.err.getLsbD 5 = false → t.regs.err.getLsbD 5 = false

section
variable {i : Instr} {s t : State}

theorem OwnerFrame.of_eq (hmem : t.mem = s.mem) (henv : t.env = s.env) (herr : t.regs.err = s.regs.err) :
    OwnerFrame i s t :=
  ⟨fun b => .inr (byte_congr_mem hmem (by rw [henv]) (by rw [henv]) b), by rw [herr]; exact id⟩

theorem OwnerFrame.flag (e : Err) (he : e ≠ .badaddr) : OwnerFrame i s (flagErr e s) :=
  ⟨fun b => .inr (flagErr_byte e s b), badaddr_clear_or he⟩

/-- An instruction that writes one buffer, its own. -/
theorem OwnerFrame.of_putBytes {c : Buffer} {k : Nat} {bs : List Byte} (hc : owns i c)
    (hmem : t.mem = (s.putBytes c k bs).mem) (henv : t.env = s.env) (herr : t.regs.err = s.regs.err) :
    OwnerFrame i s t := by
  refine ⟨fun b => ?_, by rw [herr]; exact id⟩
  by_cases hb : b = c
  · exact .inl (hb ▸ hc)
  · refine .inr fun j => ?_
    rw [byte_congr_mem hmem (by rw [henv, putBytes_env]) (by rw [henv, putBytes_env]) b j,
      putBytes_byte_other s hb]

theorem OwnerFrame.srst (s : State) : OwnerFrame .srst s (softReset s) := by
  refine ⟨fun b => ?_, fun _ => by simp [State.reset]⟩
  cases b
  case segd | segl => exact .inl (.inr rfl)
  all_goals exact .inr fun j => rfl

end

theorem badaddr_palTake (k : Nat) {s : State} (h : s.regs.err.getLsbD 5 = false) :
    (palTake k s).regs.err.getLsbD 5 = false := by
  have hbuf : (palBuffer k s).regs.err.getLsbD 5 = false := h
  rcases palTake_cases k s with ⟨-, ht⟩ | ⟨-, ht⟩ <;> rw [ht]
  · rcases palComplete_cases (palBuffer k s) with ⟨-, -, hc⟩ | ⟨-, hc⟩ <;> rw [hc]
    · exact hbuf
    · exact badaddr_clear_or (e := .palcrc) nofun hbuf
  · exact hbuf

theorem execPalSeg_ownerFrame {s t : State} (h : execPalSeg s = .next t) : OwnerFrame .palSeg s t := by
  have hf := execPalSeg_frame h
  refine ⟨fun b => ?byte, fun hclear => ?badaddr⟩
  case byte =>
    cases b
    case palbuf => exact .inl rfl
    case segd | segl => exact .inl (.inl rfl)
    all_goals exact .inr (byte_congr (hf.store _ nofun nofun nofun) (by rw [hf.env]))
  case badaddr =>
    rcases execPalSeg_cases s with ⟨-, hc⟩ | ⟨k, -, -, ⟨-, -, hc⟩ | ⟨-, -, -, hc⟩ | ⟨-, hc⟩⟩ <;>
      obtain rfl := next_inj (hc.symm.trans h)
    · exact badaddr_clear_or (e := .arg) nofun hclear
    · exact badaddr_palTake k hclear
    · exact badaddr_clear_or (e := .palhdr) nofun hclear
    · exact badaddr_palTake k hclear

/-- A command writes only the buffers it owns, and none sets BADADDR (60_exceptions.md R401). -/
theorem exec_command_ownerFrame {i : Instr} {s t : State} (hi : (encodeCmd i).isSome = true)
    (h : exec i s = .next t) : OwnerFrame i s t := by
  cases i <;> simp only [encodeCmd, Option.isSome_none, Bool.false_eq_true] at hi <;> simp only [exec] at h
  case nop | s8Clr | s8Add | c32Init | c32Add | rxbRel | canbClr => exact next_inj h ▸ .of_eq rfl rfl rfl
  case srst => exact next_inj h ▸ .srst s
  case txbClr =>
    rcases execTxbClr_cases s with ⟨-, hc⟩ | ⟨-, hc⟩ <;> obtain rfl := next_inj (hc.symm.trans h)
    · exact .flag _ nofun
    · exact .of_eq rfl rfl rfl
  case txFrame =>
    rcases execTxFrame_cases s with ⟨e, he, hc⟩ | ⟨-, -, -, -, hc⟩ <;> obtain rfl := next_inj (hc.symm.trans h)
    · exact .flag e (by rintro rfl; simp at he)
    · exact .of_eq rfl rfl rfl
  case txRaw =>
    rcases execTxRaw_cases s with ⟨e, he, hc⟩ | ⟨-, -, -, -, hc⟩ | ⟨-, -, -, -, hc⟩ <;>
      obtain rfl := next_inj (hc.symm.trans h)
    · exact .flag e (by rintro rfl; simp at he)
    · exact .of_eq rfl rfl rfl
    · exact .of_eq rfl rfl rfl
  case ucBuild =>
    rcases execUcBuild_cases s with ⟨e, he, hc⟩ | ⟨-, -, hc⟩ <;> obtain rfl := next_inj (hc.symm.trans h)
    · exact .flag e (by rintro rfl; simp at he)
    · exact .of_putBytes (c := .txbuf) (.inl rfl) rfl rfl rfl
  case ucCheck l =>
    rcases execUcCheck_cases l s with ⟨-, hc⟩ | ⟨-, hc⟩ <;> obtain rfl := next_inj (hc.symm.trans h)
    · exact .flag _ nofun
    · exact .of_eq rfl rfl rfl
  case palTx =>
    rcases execPalTx_cases s with ⟨-, hc⟩ | ⟨-, _, -, hc⟩ <;> obtain rfl := next_inj (hc.symm.trans h)
    · exact .flag _ nofun
    · exact .of_putBytes (c := .segbuf) rfl rfl rfl rfl
  case palSeg => exact execPalSeg_ownerFrame h
  case palAbort =>
    rcases execPalAbort_cases s with ⟨-, hc⟩ | ⟨-, hc⟩ <;> obtain rfl := next_inj (hc.symm.trans h)
    · exact .of_eq rfl rfl rfl
    · exact ⟨fun b => .inr (byte_congr_mem rfl rfl rfl b), badaddr_clear_or (e := .palabt) nofun⟩

theorem eq_txdataAddr_of_target {a : Addr} (h : target a = .reg .txdata) : a = 0x0030 :=
  BitVec.eq_of_toNat_eq (toNat_of_target_reg (k := 12) h rfl)

theorem eq_candataAddr_of_target {a : Addr} (h : target a = .reg .candata) : a = 0x0040 :=
  BitVec.eq_of_toNat_eq (toNat_of_target_reg (k := 16) h rfl)

theorem badaddr_clear_writeErr {v : Word} {s : State} (h : s.regs.err.getLsbD 5 = false) :
    (writeErr v s).regs.err.getLsbD 5 = false := by
  rw [writeErr, BitVec.getLsbD_and, h, Bool.false_and]

/-- A register write stores bytes only as a push to TXDATA or CANDATA, and none sets BADADDR. -/
theorem writeReg_ownerFrame {a : Addr} {r : Reg} {v : Word} {s t : State} (ha : target a = .reg r) (hr : r ≠ .cmd)
    (h : writeReg r v s = .next t) : OwnerFrame (.busWrite a v) s t := by
  rcases writeReg_cases v s hr with ⟨e, he, hc⟩ | ⟨-, hc⟩ | ⟨-, hc⟩ | ⟨-, hc⟩ | ⟨-, hc⟩ | ⟨-, -, hc⟩ | ⟨-, hc⟩ |
    ⟨-, -, hc⟩ | ⟨-, hc⟩ | ⟨-, hc⟩ | ⟨-, -, hc⟩ | ⟨rfl, -, -, hc⟩ | ⟨rfl, -, hc⟩ | hc <;>
    obtain rfl := next_inj (hc.symm.trans h)
  -- CANDATA, TXDATA, ERR, CTRL and the refusals are the cases that are more than a record update.
  on_goal 13 => exact .of_putBytes (c := .canbuf) ⟨v, by rw [eq_candataAddr_of_target ha]⟩ rfl rfl rfl
  on_goal 12 => exact .of_putBytes (c := .txbuf) (.inr ⟨v, by rw [eq_txdataAddr_of_target ha]⟩) rfl rfl rfl
  on_goal 4 => exact ⟨fun b => .inr (byte_congr_mem rfl rfl rfl b), badaddr_clear_writeErr⟩
  on_goal 2 => rw [writeCtrl_eq]
  on_goal 1 => exact .flag e (by rintro rfl; simp at he)
  all_goals exact .of_eq rfl rfl rfl

@[simp] theorem readEffect_regs (r : Reg) (s : State) : (readEffect r s).regs = s.regs := by
  rcases readEffect_cases r s with h | ⟨-, h⟩ | ⟨-, h⟩ | ⟨-, h⟩ <;> rw [h]

/-- A read of a mapped address leaves ERR. -/
theorem busRead_keeps_regs {a : Addr} {s t : State} (hmap : target a ≠ .unmapped) (h : execBusRead a s = .next t) :
    t.regs = s.regs := by
  rcases execBusRead_cases a s with ⟨ha, -⟩ | ⟨_, _, -, hc⟩ | ⟨r, -, hc⟩
  · exact absurd ha hmap
  · rw [← next_inj (hc.symm.trans h), setRdata_regs]
  · rw [← next_inj (hc.symm.trans h), setRdata_regs, readEffect_regs]

/-- A write of a mapped address does not set BADADDR. -/
theorem busWrite_keeps_badaddr_clear {a : Addr} {v : Word} {s t : State} (hmap : target a ≠ .unmapped)
    (h : execBusWrite a v s = .next t) (hclear : s.regs.err.getLsbD 5 = false) : t.regs.err.getLsbD 5 = false := by
  rcases execBusWrite_cases a v s with ⟨ha, -⟩ | ⟨_, _, -, hc⟩ | ⟨-, hc⟩ | ⟨i, -, -, hi, hc⟩ | ⟨r, hr, ha, hc⟩
  · exact absurd ha hmap
  · exact next_inj (hc.symm.trans h) ▸ hclear
  · exact next_inj (hc.symm.trans h) ▸ badaddr_clear_or (e := .badop) nofun hclear
  · exact (exec_command_ownerFrame hi (hc.symm.trans h)).badaddr hclear
  · exact (writeReg_ownerFrame ha hr (hc.symm.trans h)).badaddr hclear

end Sys2Proof.Machine

namespace Sys2Proof.Proofs
open Sys2Proof.Machine

/-- Settles O42: the bus sets BADADDR exactly where an address names nothing, and no command or register write sets
it. -/
theorem unmappedAccessSetsBadaddr : Obligations.UnmappedAccessSetsBadaddr := by
  refine fun s a v => ⟨fun hun => ?_, fun halign hrange t h hclear => ?_⟩
  · have ha : target a = .unmapped := (target_eq_unmapped_iff a).mpr ((unmapped_iff a).mpr hun)
    exact ⟨exec_busRead_unmapped ha s, exec_busWrite_unmapped ha v s⟩
  · have ha : target a ≠ .unmapped := by
      rw [ne_eq, target_eq_unmapped_iff, unmapped_iff]; omega
    rcases h with h | h
    · rw [busRead_keeps_regs ha h]; exact hclear
    · exact busWrite_keeps_badaddr_clear ha h hclear

end Sys2Proof.Proofs

namespace Sys2Proof.Machine

/-- The plain write that an access decodes to never names a command: those go by their own constructors. -/
theorem decodeCmd_ne_ok_of_decode {a : Addr} {v : Word} {i : Instr} (hd : decode (.write a v) = .busWrite a v)
    (ha : target a = .reg .cmd) : decodeCmd v ≠ .ok i := by
  intro hi
  obtain rfl : a = cmdAddr := eq_cmdAddr_of_target ha
  obtain rfl : i = .busWrite cmdAddr v := by simpa [decode, hi] using hd
  simpa [encodeCmd] using decodeCmd_isCommand hi

/-- A host access changes only the buffers that its instruction owns. -/
theorem hostAccess_byte {acc : BusAccess} {s t : State} (h : exec (decode acc) s = .next t) (b : Buffer) :
    owns (decode acc) b ∨ ∀ j, t.byte b j = s.byte b j := by
  rcases decode_cases acc with ⟨a, -, hd⟩ | ⟨a, v, rfl, hd⟩ | ⟨v, i, -, hi, hd⟩
  · rw [hd] at h
    obtain ⟨-, -, -, -, hmem, ⟨_, henv⟩, -⟩ := execBusRead_frame h
    exact .inr (byte_congr_mem hmem (by rw [henv]) (by rw [henv]) b)
  · have h' : execBusWrite a v s = .next t := by rwa [hd] at h
    rcases execBusWrite_cases a v s with ⟨-, hc⟩ | ⟨_, _, -, hc⟩ | ⟨-, hc⟩ | ⟨i, ha, hi, -, -⟩ | ⟨r, hr, ha, hc⟩
    · exact .inr (next_inj (hc.symm.trans h') ▸ flagErr_byte _ s b)
    · exact .inr (next_inj (hc.symm.trans h') ▸ fun _ => rfl)
    · exact .inr (next_inj (hc.symm.trans h') ▸ flagErr_byte _ s b)
    · exact absurd hi (decodeCmd_ne_ok_of_decode hd ha)
    · rw [hd]; exact (writeReg_ownerFrame ha hr (hc.symm.trans h')).byte b
  · rw [hd] at h ⊢
    exact (exec_command_ownerFrame (decodeCmd_isCommand hi) h).byte b

theorem step_of_host {s : State} {acc : BusAccess} (h : s.nextInput = .host acc) :
    step s = exec (decode acc) s.popInput := by
  simp [step, h]

theorem serializerStep_byte (s : State) (b : Buffer) (j : Nat) : (serializerStep s).byte b j = s.byte b j :=
  byte_congr_mem (by simp) (by simp) (by simp) b j

theorem clockEdge_byte (r : Bool) (s : State) (b : Buffer) (j : Nat) : (clockEdge r s).byte b j = s.byte b j :=
  byte_congr_mem (by simp) (by simp) (by simp) b j

/-- The sampler's step stores bytes in ASM and RXBUF only (42_frame_rx.md R206, R211). -/
theorem samplerStep_byte (s : State) {b : Buffer} (hasm : b ≠ .asm) (hrx : b ≠ .rxbuf) (j : Nat) :
    (samplerStep s).byte b j = s.byte b j := by
  rcases samplerStep_cases s with ⟨r, -, h⟩ | ⟨-, h⟩ <;> rw [h]
  rw [(samplerTick_frame r _).byte hasm hrx]
  exact byte_congr_mem rfl rfl rfl b j

/-- A step that is neither a host access nor `rst_n` stores bytes in ASM and RXBUF only. -/
theorem step_engine_byte {s t : State} (h : step s = .next t) (hhost : ¬ ∃ acc, s.nextInput = .host acc)
    (hrst : s.nextInput ≠ .rstN) {b : Buffer} (hasm : b ≠ .asm) (hrx : b ≠ .rxbuf) (j : Nat) :
    t.byte b j = s.byte b j := by
  rcases step_cases h with ⟨acc, hin, -⟩ | (rfl | rfl) | (rfl | rfl) | ⟨r, rfl⟩ | ⟨hin, -⟩
  · exact absurd ⟨acc, hin⟩ hhost
  · rw [serializerStep_byte]
  · rw [serializerStep_byte, popInput_byte]
  · rw [samplerStep_byte s hasm hrx]
  · rw [samplerStep_byte _ hasm hrx, popInput_byte]
  · rw [clockEdge_byte, popInput_byte]
  · exact absurd hin hrst

end Sys2Proof.Machine

namespace Sys2Proof.Proofs
open Sys2Proof.Machine

/-- Settles O52: a host access writes only what its instruction owns, and the engines only ASM and RXBUF. -/
theorem buffersChangeOnlyByTheirOwners : Obligations.BuffersChangeOnlyByTheirOwners := by
  intro s t h hrst runs
  by_cases hhost : ∃ acc, s.nextInput = .host acc
  · obtain ⟨acc, hin⟩ := hhost
    have hbyte (b : Buffer) : (∀ j, t.byte b j = s.byte b j) ∨ owns (decode acc) b := by
      rw [step_of_host hin] at h
      simpa using (hostAccess_byte h b).symm
    have hruns {i : Instr} (hi : decode acc = i) : runs i := ⟨acc, hin, hi⟩
    refine ⟨(hbyte .txbuf).imp_right ?_, (hbyte .segbuf).imp_right hruns, (hbyte .palbuf).imp_right hruns,
      (hbyte .canbuf).imp_right fun ⟨v, hi⟩ => ⟨v, hruns hi⟩, .inl fun j => ?_⟩
    · exact Or.imp hruns fun ⟨v, hi⟩ => ⟨v, hruns hi⟩
    · exact ⟨(hbyte .rxbuf).resolve_right id j, (hbyte .asm).resolve_right id j⟩
  · have hbyte {b : Buffer} (hasm : b ≠ .asm) (hrx : b ≠ .rxbuf) : ∀ j, t.byte b j = s.byte b j :=
      step_engine_byte h hhost hrst hasm hrx
    exact ⟨.inl (hbyte nofun nofun), .inl (hbyte nofun nofun), .inl (hbyte nofun nofun),
      .inl (hbyte nofun nofun), .inr hhost⟩

end Sys2Proof.Proofs
end

section
/-! PROOFS. The command words three ways: by the fields OP and ARG (30_encoding.md R102, R103), by the encoder, and by
the rows of the opcode map (R105). They agree, so decoding undoes encoding and a word written to CMD runs the command
its fields name. -/

namespace Sys2Proof
open Sys2Proof.Machine

theorem cmdWord_toNat (op arg : Byte) : (cmdWord op arg).toNat = op.toNat * 2 ^ 24 + arg.toNat := by
  have hrsv : (0 : BitVec 16).toNat = 0 := rfl
  simp only [cmdWord, toNat_append_eq_add, hrsv]
  omega

theorem eq_cmdWord_iff {w : Word} {op arg : Byte} :
    w = cmdWord op arg ↔ w.toNat / 2 ^ 24 = op.toNat ∧ w.toNat % 2 ^ 24 = arg.toNat := by
  rw [← BitVec.toNat_inj, cmdWord_toNat]
  omega

/-! ## The fields and the encoder -/

theorem encodeCmd_of_namedCommand {w : Word} {i : Instr} (h : namedCommand w = some i) : encodeCmd i = some w := by
  have hw {op arg : Byte} (hop : w.toNat / 2 ^ 24 = op.toNat) (harg : w.toNat % 2 ^ 24 = arg.toNat) :
      some (cmdWord op arg) = some w := congrArg some (eq_cmdWord_iff.mpr ⟨hop, harg⟩).symm
  simp only [namedCommand, ite_eq_iff, reduceCtorEq, Option.some.injEq, and_false, or_false, false_or, ne_eq,
    not_not] at h
  generalize w.toNat / 2 ^ 24 = op, w.toNat % 2 ^ 24 = low at h hw
  rcases h with ⟨hop, hlow, rfl⟩ | ⟨-, ⟨hop, hlow, rfl⟩ | ⟨-, ⟨hop, hlow, rfl⟩ | ⟨-, hlow, hfixed⟩⟩⟩
  · exact hw hop (Nat.mod_eq_of_lt hlow).symm
  · exact hw hop (Nat.mod_eq_of_lt hlow).symm
  · exact hw hop (by rw [BitVec.toNat_setWidth, BitVec.toNat_ofNat]; omega)
  · casesm* _ ∧ _, _ ∨ _ <;> subst i <;> exact hw (by assumption) hlow

theorem namedCommand_of_encodeCmd {w : Word} {i : Instr} (h : encodeCmd i = some w) : namedCommand w = some i := by
  have fields {op arg : Byte} (hw : some (cmdWord op arg) = some w) := eq_cmdWord_iff.mp (Option.some.inj hw).symm
  cases i with
  | s8Add b =>
    obtain ⟨hop, hlow⟩ : w.toNat / 2 ^ 24 = 0x11 ∧ w.toNat % 2 ^ 24 = b.toNat := fields h
    simp only [namedCommand, hop, hlow]
    simp [b.isLt]
  | c32Add b =>
    obtain ⟨hop, hlow⟩ : w.toNat / 2 ^ 24 = 0x19 ∧ w.toNat % 2 ^ 24 = b.toNat := fields h
    simp only [namedCommand, hop, hlow]
    simp [b.isLt]
  | ucCheck l =>
    obtain ⟨hop, hlow⟩ : w.toNat / 2 ^ 24 = 0x41 ∧ w.toNat % 2 ^ 24 = (l.setWidth 8).toNat := fields h
    rw [BitVec.toNat_setWidth_of_le (by decide)] at hlow
    simp only [namedCommand, hop, hlow]
    simp [l.isLt]
  | busRead | busWrite => cases h
  | _ => cases h; rfl

/-- The fields of a word name the command whose word it is. -/
theorem namedCommand_eq_some_iff {w : Word} {i : Instr} : namedCommand w = some i ↔ encodeCmd i = some w :=
  ⟨encodeCmd_of_namedCommand, namedCommand_of_encodeCmd⟩

theorem encodeCmd_injective {i j : Instr} {w : Word} (hi : encodeCmd i = some w) (hj : encodeCmd j = some w) : i = j :=
  Option.some.inj ((namedCommand_of_encodeCmd hi).symm.trans (namedCommand_of_encodeCmd hj))

/-! ## The opcode map and the encoder -/

/-- A row whose mask leaves out the `k` low bits compares the others. -/
theorem selects_iff_toNat {r : CmdRow} {k : Nat} (hmask : r.mask = BitVec.allOnes 32 <<< k) (w : Word) :
    r.selects w = true ↔ w.toNat / 2 ^ k * 2 ^ k = r.pattern.toNat := by
  have hlt : w.toNat / 2 ^ k * 2 ^ k < 2 ^ 32 := (Nat.div_mul_le_self _ _).trans_lt w.isLt
  rw [CmdRow.selects, beq_iff_eq, hmask, ← BitVec.shiftLeft_ushiftRight, ← BitVec.toNat_inj, BitVec.toNat_shiftLeft,
    BitVec.toNat_ushiftRight, Nat.shiftLeft_eq, Nat.shiftRight_eq_div_pow, Nat.mod_eq_of_lt hlt]

/-- A row of opcode `op` that takes the `k` low bits as its argument is selected by the words of what it builds. -/
theorem selects_iff_encodeCmd {r : CmdRow} {k : Nat} {op : Byte} {arg : Word → Byte}
    (hmask : r.mask = BitVec.allOnes 32 <<< k) (hpat : r.pattern = cmdWord op 0)
    (hbuild : ∀ w, encodeCmd (r.build w) = some (cmdWord op (arg w)))
    (harg : ∀ w, w.toNat % 2 ^ k = (arg w).toNat) (w : Word) :
    r.selects w = true ↔ encodeCmd (r.build w) = some w := by
  have hzero : (0 : Byte).toNat = 0 := rfl
  have hdiv := Nat.div_add_mod' w.toNat (2 ^ k)
  rw [selects_iff_toNat hmask, hpat, hbuild, Option.some_inj, ← BitVec.toNat_inj, cmdWord_toNat, cmdWord_toNat, ← harg]
  omega

theorem cmdTable_selects_iff_encodeCmd :
    ∀ r ∈ cmdTable, ∀ w, r.selects w = true ↔ encodeCmd (r.build w) = some w := by
  have fixed {p : Word} {op : Byte} {i : Instr} (h : encodeCmd i = some (cmdWord op 0)) (hp : p = cmdWord op 0)
      (w : Word) : CmdRow.selects ⟨0xFFFFFFFF, p, fun _ => i⟩ w = true ↔ encodeCmd i = some w :=
    selects_iff_encodeCmd (k := 0) rfl hp (fun _ => h) (fun _ => Nat.mod_one _) w
  simp only [cmdTable, List.forall_mem_cons]
  refine ⟨fixed rfl rfl, fixed rfl rfl, fixed rfl rfl, ?s8Add, fixed rfl rfl, ?c32Add, fixed rfl rfl, fixed rfl rfl,
    fixed rfl rfl, fixed rfl rfl, fixed rfl rfl, fixed rfl rfl, ?ucCheck, fixed rfl rfl, fixed rfl rfl, fixed rfl rfl,
    nofun⟩
  case s8Add | c32Add => exact selects_iff_encodeCmd (k := 8) rfl rfl (fun _ => rfl) fun _ => rfl
  case ucCheck =>
    refine selects_iff_encodeCmd (k := 3) rfl rfl (fun _ => rfl) fun w => ?_
    rw [BitVec.toNat_setWidth_of_le (by decide)]
    rfl

theorem argByte_cmdWord (op arg : Byte) : argByte (cmdWord op arg) = arg :=
  BitVec.extractLsb'_append_eq_right

theorem argLen_cmdWord (op : Byte) (l : BitVec 3) : argLen (cmdWord op (l.setWidth 8)) = l := by
  apply BitVec.eq_of_toNat_eq
  rw [argLen, BitVec.extractLsb'_toNat, Nat.shiftRight_zero, cmdWord_toNat, BitVec.toNat_setWidth_of_le (by decide)]
  omega

/-- Every command has its row in the opcode map. -/
theorem exists_row_of_encodeCmd {w : Word} {i : Instr} (h : encodeCmd i = some w) : ∃ r ∈ cmdTable, r.build w = i := by
  cases i with
  | busRead | busWrite => cases h
  | s8Add b | c32Add b => cases h; simp [cmdTable, argByte_cmdWord]
  | ucCheck l => cases h; simp [cmdTable, argLen_cmdWord]
  | _ => simp [cmdTable]

/-- The decoder of command words is the inverse of the encoder. -/
theorem decodeCmd_eq_ok_iff {w : Word} {i : Instr} : decodeCmd w = .ok i ↔ encodeCmd i = some w := by
  constructor
  · intro h
    rcases decodeCmd_cases w with ⟨r, hr, hsel, hd⟩ | ⟨-, hd⟩
    · obtain rfl := Except.ok.inj (hd.symm.trans h)
      exact (cmdTable_selects_iff_encodeCmd r hr w).mp hsel
    · cases hd.symm.trans h
  · intro h
    rcases decodeCmd_cases w with ⟨r, hr, hsel, hd⟩ | ⟨hnone, -⟩
    · rw [hd, encodeCmd_injective ((cmdTable_selects_iff_encodeCmd r hr w).mp hsel) h]
    · obtain ⟨r, hr, rfl⟩ := exists_row_of_encodeCmd h
      cases (hnone r hr).symm.trans ((cmdTable_selects_iff_encodeCmd r hr w).mpr h)

theorem decodeCmd_eq_ok_iff_namedCommand {w : Word} {i : Instr} : decodeCmd w = .ok i ↔ namedCommand w = some i :=
  decodeCmd_eq_ok_iff.trans namedCommand_eq_some_iff.symm

/-! ## Host accesses -/

theorem encode_of_encodeCmd {i : Instr} {w : Word} (h : encodeCmd i = some w) : encode i = .write cmdAddr w := by
  cases i with
  | busRead | busWrite => cases h
  | _ => cases h; rfl

theorem decode_cmd_of_ok {w : Word} {i : Instr} (h : decodeCmd w = .ok i) : decode (.write cmdAddr w) = i := by
  simp [decode, h]

theorem decode_write_of_not_command {a : Addr} {v : Word} (h : a = cmdAddr → ∀ i, decodeCmd v ≠ .ok i) :
    decode (.write a v) = .busWrite a v := by
  rcases decode_cases (.write a v) with ⟨_, hacc, -⟩ | ⟨_, _, hacc, hd⟩ | ⟨_, i, hacc, hi, -⟩ <;> cases hacc
  · exact hd
  · exact absurd hi (h rfl i)

theorem isCommandWord_of_ok {w : Word} {i : Instr} (h : decodeCmd w = .ok i) : isCommandWord w = true := by
  simp [isCommandWord, h]

end Sys2Proof

namespace Sys2Proof.Machine

theorem runCommand_of_ok {w : Word} {i : Instr} (h : decodeCmd w = .ok i) (s : State) : runCommand w s = exec i s := by
  have hi := decodeCmd_isCommand h
  rw [runCommand, h]
  cases i with
  | busRead | busWrite => cases hi
  | _ => rfl

theorem runCommand_of_not_command {w : Word} (h : ∀ i, decodeCmd w ≠ .ok i) (s : State) :
    runCommand w s = .next (flagErr .badop s) := by
  rcases runCommand_cases w s with hr | ⟨i, hi, -⟩
  · exact hr
  · exact absurd hi (h i)

theorem exec_busWrite_cmd (w : Word) (s : State) : exec (.busWrite 0x0010 w) s = runCommand w s := rfl

end Sys2Proof.Machine

namespace Sys2Proof.Proofs
open Sys2Proof.Machine

/-- Settles O1: a command's word decodes to the command, and well-formedness keeps command words out of a bus write. -/
theorem encodedInstructionDecodesBack : Obligations.EncodedInstructionDecodesBack := by
  intro i hwf
  cases hi : encodeCmd i with
  | some w => rw [encode_of_encodeCmd hi, decode_cmd_of_ok (decodeCmd_eq_ok_iff.mpr hi)]
  | none =>
    cases i with
    | busRead a => rfl
    | busWrite a v =>
      refine decode_write_of_not_command fun ha j hj => ?_
      simp [Instr.wellFormed, ha, isCommandWord_of_ok hj] at hwf
    | _ => cases hi

/-- Settles O2: each word evaluates. -/
theorem opcodeMapWordsDecode : Obligations.OpcodeMapWordsDecode := by
  unfold Obligations.OpcodeMapWordsDecode
  decide

/-- Settles O3: the fields of a word name exactly the command that it decodes to. -/
theorem commandWordRunsOrIsRefused : Obligations.CommandWordRunsOrIsRefused := by
  intro w s
  rw [exec_busWrite_cmd]
  constructor
  · intro i hnamed
    have hd : decodeCmd w = .ok i := decodeCmd_eq_ok_iff_namedCommand.mpr hnamed
    exact ⟨decode_cmd_of_ok hd, runCommand_of_ok hd s⟩
  · intro hnone
    have hd (i : Instr) : decodeCmd w ≠ .ok i := fun hi => by
      cases hnone.symm.trans (decodeCmd_eq_ok_iff_namedCommand.mp hi)
    exact ⟨decode_write_of_not_command fun _ => hd, runCommand_of_not_command hd s⟩

end Sys2Proof.Proofs
end

section
/-! PROOFS. The fields of a frame (30_encoding.md R110 to R114): how long each is, and where in the frame it stands. -/

namespace Sys2Proof.Machine

@[simp] theorem length_lenField (cfg : FrameCfg) (n : Nat) : (lenField cfg n).length = lenBytes cfg := by
  unfold lenField lenBytes
  split <;> rfl

@[simp] theorem length_instrField (cfg : FrameCfg) (t : Word) : (instrField cfg t).length = cfg.iw.val := by
  simp [instrField]

theorem getElem?_instrField {cfg : FrameCfg} {k : Nat} (hk : k < cfg.iw.val) (t : Word) :
    (instrField cfg t)[k]? = some (BitVec.ofNat 8 (t.toNat / 256 ^ (cfg.iw.val - 1 - k))) := by
  rw [instrField, List.getElem?_map, List.getElem?_range hk, Option.map_some, show 256 = 2 ^ 8 from rfl, ← pow_mul,
    ← Nat.shiftRight_eq_div_pow]
  rfl

@[simp] theorem length_checkField (cfg : FrameCfg) (init : Word) (cov : List Byte) :
    (checkField cfg init cov).length = if cfg.chk = .crc32 then 4 else 1 := by
  unfold checkField
  split <;> simp_all [le32]

section
variable (cfg : FrameCfg) (init t : Word) (p : List Byte)

@[simp] theorem length_covered : (covered cfg t p).length = lenBytes cfg + cfg.iw.val + p.length := by
  simp [covered, Nat.add_assoc]

theorem frameOf_eq_cons : frameOf cfg init t p =
    cfg.sm :: (covered cfg t p ++ (checkField cfg init (covered cfg t p) ++ [cfg.em])) := by
  simp [frameOf]

theorem length_frameOf : (frameOf cfg init t p).length =
    1 + lenBytes cfg + cfg.iw.val + p.length + (if cfg.chk = .crc32 then 4 else 1) + 1 := by
  simp only [frameOf, List.length_append, List.length_singleton, length_covered, length_checkField]
  omega

theorem length_frameOf_bounds (hp : p.length ≤ if cfg.lw then 1024 else 255) :
    4 ≤ (frameOf cfg init t p).length ∧ (frameOf cfg init t p).length ≤ 1036 := by
  have hiw := cfg.iw.isLt
  rw [length_frameOf, lenBytes]
  split_ifs at hp ⊢ <;> omega

/-! What a frame holds from the covered bytes, the instruction field, the payload and the check field on. -/

theorem take_drop_one_frameOf :
    ((frameOf cfg init t p).drop 1).take (lenBytes cfg + cfg.iw.val + p.length) = covered cfg t p := by
  rw [frameOf_eq_cons, List.drop_one, List.tail_cons, List.take_left' (length_covered cfg t p)]

theorem drop_frameOf_instr : (frameOf cfg init t p).drop (1 + lenBytes cfg) =
    instrField cfg t ++ (p ++ (checkField cfg init (covered cfg t p) ++ [cfg.em])) := by
  rw [frameOf_eq_cons, Nat.add_comm, List.drop_succ_cons, covered, List.append_assoc, List.append_assoc,
    List.drop_left' (length_lenField cfg p.length)]

theorem drop_frameOf_payload : (frameOf cfg init t p).drop (1 + lenBytes cfg + cfg.iw.val) =
    p ++ (checkField cfg init (covered cfg t p) ++ [cfg.em]) := by
  rw [← List.drop_drop, drop_frameOf_instr, List.drop_left' (length_instrField cfg t)]

theorem drop_frameOf_check : (frameOf cfg init t p).drop (1 + lenBytes cfg + cfg.iw.val + p.length) =
    checkField cfg init (covered cfg t p) ++ [cfg.em] := by
  rw [← List.drop_drop, drop_frameOf_payload, List.drop_left]

theorem getElem?_frameOf_instr {k : Nat} (hk : k < cfg.iw.val) : (frameOf cfg init t p)[1 + lenBytes cfg + k]? =
    some (BitVec.ofNat 8 (t.toNat / 256 ^ (cfg.iw.val - 1 - k))) := by
  rw [← List.getElem?_drop, drop_frameOf_instr, List.getElem?_append_left (by simpa using hk), getElem?_instrField hk]

theorem take_drop_frameOf_payload :
    ((frameOf cfg init t p).drop (1 + lenBytes cfg + cfg.iw.val)).take p.length = p := by
  rw [drop_frameOf_payload, List.take_left]

theorem take_drop_frameOf_check :
    ((frameOf cfg init t p).drop (1 + lenBytes cfg + cfg.iw.val + p.length)).take
      (if cfg.chk = .crc32 then 4 else 1) = checkField cfg init (covered cfg t p) := by
  rw [drop_frameOf_check, List.take_left' (length_checkField cfg init _)]

end

end Sys2Proof.Machine

namespace Sys2Proof.Proofs
open Sys2Proof.Machine

/-- Settles O11: each field stands in the frame after the lengths of the fields before it. -/
theorem frameLayout : Obligations.FrameLayout := by
  intro cfg init t p hp lb cb f cov
  have hcov : cov = covered cfg t p := take_drop_one_frameOf cfg init t p
  obtain ⟨hmin, hmax⟩ := length_frameOf_bounds cfg init t p hp
  refine ⟨length_frameOf cfg init t p, hmin, hmax, rfl, List.getLast?_concat, fun hlw => ?len1, fun hlw => ?len2,
    fun k hk => getElem?_frameOf_instr cfg init t p hk, take_drop_frameOf_payload cfg init t p,
    (take_drop_frameOf_check cfg init t p).trans ?check⟩
  case len1 | len2 => simp [f, frameOf_eq_cons, covered, lenField, hlw]
  case check =>
    rw [hcov, checkField]
    cases cfg.chk <;> rfl

end Sys2Proof.Proofs
end

section
/-! PROOFS. CRC32 as a division bit by bit (40_checksum.md R150): the bytewise shifts take in the data's bits one by one,
so four bytes go in as the one word they spell, and a buffer's own CRC32 cancels it (R144). -/

namespace Sys2Proof.Machine

/-- One shift of a CRC with data mixed in takes in the data's bit 0 and leaves the rest of the data mixed in. -/
theorem crc32Shift_xor (c d : Word) : crc32Shift (c ^^^ d) = crcBit c (d.getLsbD 0) ^^^ d >>> 1 := by
  rw [crc32Shift, crcBit, BitVec.getLsbD_xor, BitVec.ushiftRight_xor_distrib]
  split
  · rw [BitVec.xor_assoc, BitVec.xor_assoc, BitVec.xor_comm (d >>> 1)]
  · rfl

/-- `n` shifts of a CRC with data mixed in are the bit-serial CRC over the data's low `n` bits. -/
theorem repeat_crc32Shift_xor (n : Nat) (c d : Word) : Nat.repeat crc32Shift n (c ^^^ d) =
    ((List.range n).map d.getLsbD).foldl crcBit c ^^^ d >>> n := by
  induction n with
  | zero => simp [Nat.repeat]
  | succ n ih =>
    rw [Nat.repeat, ih, crc32Shift_xor, List.range_succ, List.map_append, List.foldl_append, BitVec.shiftRight_add,
      BitVec.getLsbD_ushiftRight]
    rfl

theorem crc32Byte_eq_foldl_crcBit (c : Word) (b : Byte) : crc32Byte c b = (bitsOf b).foldl crcBit c := by
  have hbits : (List.range 8).map (b.setWidth 32).getLsbD = bitsOf b := by
    simp [bitsOf, List.range_succ]
  have hrest : b.setWidth 32 >>> 8 = 0 := by
    apply BitVec.eq_of_toNat_eq
    rw [BitVec.toNat_ushiftRight, BitVec.toNat_setWidth_of_le (by decide)]
    exact Nat.shiftRight_eq_zero _ _ b.isLt
  rw [crc32Byte, repeat_crc32Shift_xor, hbits, hrest]
  exact BitVec.xor_zero

theorem crc32_eq_foldl_crcBit (init : Word) (d : List Byte) : crc32 init d = (d.flatMap bitsOf).foldl crcBit init := by
  have hbyte : crc32Byte = fun c b => (bitsOf b).foldl crcBit c := funext₂ crc32Byte_eq_foldl_crcBit
  rw [crc32, hbyte, List.foldl_flatMap]

/-! ## The residue -/

theorem crc32_append (init : Word) (d e : List Byte) : crc32 init (d ++ e) = crc32 (crc32 init d) e :=
  List.foldl_append

/-- The bits of a word's four bytes, least significant byte first, are the word's bits in order. -/
theorem flatMap_bitsOf_le32 (x : Word) : (le32 x).flatMap bitsOf = (List.range 32).map x.getLsbD := by
  simp [le32, bitsOf, List.range_succ]

/-- A word's four bytes, least significant byte first, go into a CRC as the word itself. -/
theorem crc32_le32 (c x : Word) : crc32 c (le32 x) = Nat.repeat crc32Shift 32 (c ^^^ x) := by
  rw [crc32_eq_foldl_crcBit, flatMap_bitsOf_le32, repeat_crc32Shift_xor, BitVec.ushiftRight_eq_zero (by decide)]
  exact BitVec.xor_zero.symm

end Sys2Proof.Machine

namespace Sys2Proof.Proofs
open Sys2Proof.Machine

/-- Settles O7, a byte at a time. -/
theorem crc32IsBitSerial : Obligations.Crc32IsBitSerial := crc32_eq_foldl_crcBit

/-- Settles O6: the CRC32 that follows a buffer meets itself in the register, so what is shifted is 0 or the final
inversion, whatever the buffer. -/
theorem crc32ZeroResidue : Obligations.Crc32ZeroResidue := by
  refine ⟨fun init d => ?_, fun init d => ?_, 1, [], by decide +kernel⟩
  · rw [crc32_append, crc32_le32, BitVec.xor_self]
    decide +kernel
  · rw [crc32_append, crc32_le32, ← BitVec.xor_assoc, BitVec.xor_self, BitVec.zero_xor]
    decide +kernel

end Sys2Proof.Proofs
end

section
/-! PROOFS. The host's checksum units (40_checksum.md R142 to R147): the refused words of their four commands, and which
accesses change S8 or C32. -/

namespace Sys2Proof.Machine

theorem ofNat_add_mod_eq (a b : Byte) : BitVec.ofNat 8 ((a.toNat + b.toNat) % 256) = a + b :=
  BitVec.eq_of_toNat_eq (by simp)

theorem execC32Add_eq_foldl (b : Byte) (s : State) :
    execC32Add b s = .next { s with regs := { s.regs with c32 := (bitsOf b).foldl crcBit s.regs.c32 } } := by
  rw [execC32Add, crc32Byte_eq_foldl_crcBit]

/-- S8 and C32 of `t` are those of `s`. -/
def ChecksumsKept (s t : State) : Prop := t.regs.s8 = s.regs.s8 ∧ t.regs.c32 = s.regs.c32

/-- The four commands of the checksum units. -/
def isChecksumCommand (i : Instr) : Prop := i = .s8Clr ∨ (∃ b, i = .s8Add b) ∨ i = .c32Init ∨ ∃ b, i = .c32Add b

section
variable {s t : State}

theorem ChecksumsKept.of_regs (h : t.regs = s.regs) : ChecksumsKept s t := by simp [ChecksumsKept, h]

theorem errGrows.checksumsKept (h : errGrows s t) : ChecksumsKept s t := by
  obtain ⟨m, hm⟩ := h
  simp [ChecksumsKept, hm]

theorem exec_command_checksums {i : Instr} (hi : (encodeCmd i).isSome = true) (h : exec i s = .next t) :
    ChecksumsKept s t ∨ i = .srst ∨ isChecksumCommand i := by
  unfold isChecksumCommand
  cases i <;> simp only [encodeCmd, Option.isSome_none, Bool.false_eq_true] at hi <;> simp only [exec] at h
  case srst => exact .inr (.inl rfl)
  case s8Clr | s8Add | c32Init | c32Add => simp
  all_goals left
  case nop | rxbRel | canbClr => exact next_inj h ▸ .of_regs rfl
  case txbClr =>
    rcases execTxbClr_cases s with ⟨-, hc⟩ | ⟨-, hc⟩ <;> obtain rfl := next_inj (hc.symm.trans h) <;> exact ⟨rfl, rfl⟩
  case txFrame =>
    rcases execTxFrame_cases s with ⟨_, -, hc⟩ | ⟨-, -, -, -, hc⟩ <;> obtain rfl := next_inj (hc.symm.trans h) <;>
      exact ⟨rfl, rfl⟩
  case txRaw =>
    rcases execTxRaw_cases s with ⟨_, -, hc⟩ | ⟨-, -, -, -, hc⟩ | ⟨-, -, -, -, hc⟩ <;>
      obtain rfl := next_inj (hc.symm.trans h) <;> exact ⟨rfl, rfl⟩
  case ucBuild =>
    rcases execUcBuild_cases s with ⟨_, -, hc⟩ | ⟨-, -, hc⟩ <;> obtain rfl := next_inj (hc.symm.trans h) <;>
      exact ⟨rfl, rfl⟩
  case ucCheck l =>
    rcases execUcCheck_cases l s with ⟨-, hc⟩ | ⟨-, hc⟩ <;> obtain rfl := next_inj (hc.symm.trans h) <;> exact ⟨rfl, rfl⟩
  case palTx =>
    rcases execPalTx_cases s with ⟨-, hc⟩ | ⟨-, _, -, hc⟩ <;> obtain rfl := next_inj (hc.symm.trans h) <;>
      exact ⟨rfl, rfl⟩
  case palSeg => exact (execPalSeg_frame h).err.checksumsKept
  case palAbort => exact (execPalAbort_frame h).err.checksumsKept

theorem writeReg_checksums {r : Reg} {v : Word} (hr : r ≠ .cmd) (h : writeReg r v s = .next t) :
    ChecksumsKept s t ∨ r = .s8 ∨ r = .c32 := by
  rcases writeReg_cases v s hr with ⟨e, -, hc⟩ | ⟨-, hc⟩ | ⟨-, hc⟩ | ⟨-, hc⟩ | ⟨-, hc⟩ | ⟨-, -, hc⟩ | ⟨-, hc⟩ |
    ⟨-, -, hc⟩ | ⟨hs8, -⟩ | ⟨hc32, -⟩ | ⟨-, -, hc⟩ | ⟨-, -, -, hc⟩ | ⟨-, -, hc⟩ | hc
  -- The writes of C32 and of S8.
  on_goal 10 => exact .inr (.inr hc32)
  on_goal 9 => exact .inr (.inl hs8)
  all_goals obtain rfl := next_inj (hc.symm.trans h)
  on_goal 2 => rw [writeCtrl_eq]
  all_goals exact .inl ⟨rfl, rfl⟩

end

theorem eq_s8Addr_of_target {a : Addr} (h : target a = .reg .s8) : a = 0x0020 :=
  BitVec.eq_of_toNat_eq (toNat_of_target_reg (k := 8) h rfl)

theorem eq_c32Addr_of_target {a : Addr} (h : target a = .reg .c32) : a = 0x0024 :=
  BitVec.eq_of_toNat_eq (toNat_of_target_reg (k := 9) h rfl)

/-- A host access changes S8 or C32 only as SRST, as a checksum command or as a write of one of the two. -/
theorem hostAccess_checksums {acc : BusAccess} {s t : State} (h : exec (decode acc) s = .next t) :
    ChecksumsKept s t ∨ decode acc = .srst ∨ isChecksumCommand (decode acc) ∨
      (∃ v, acc = .write 0x0020 v) ∨ ∃ v, acc = .write 0x0024 v := by
  rcases decode_cases acc with ⟨a, -, hd⟩ | ⟨a, v, rfl, hd⟩ | ⟨v, i, -, hi, hd⟩
  · rw [hd] at h
    obtain ⟨-, -, -, -, -, -, -, -, herr⟩ := execBusRead_frame h
    exact .inl herr.checksumsKept
  · have h' : execBusWrite a v s = .next t := by rwa [hd] at h
    rcases execBusWrite_cases a v s with ⟨-, hc⟩ | ⟨_, _, -, hc⟩ | ⟨-, hc⟩ | ⟨i, ha, hi, -, -⟩ | ⟨r, hr, ha, hc⟩
    · exact .inl (next_inj (hc.symm.trans h') ▸ ⟨rfl, rfl⟩)
    · exact .inl (next_inj (hc.symm.trans h') ▸ ⟨rfl, rfl⟩)
    · exact .inl (next_inj (hc.symm.trans h') ▸ ⟨rfl, rfl⟩)
    · exact absurd hi (decodeCmd_ne_ok_of_decode hd ha)
    · rcases writeReg_checksums hr (hc.symm.trans h') with hk | rfl | rfl
      · exact .inl hk
      · exact .inr (.inr (.inr (.inl ⟨v, by rw [eq_s8Addr_of_target ha]⟩)))
      · exact .inr (.inr (.inr (.inr ⟨v, by rw [eq_c32Addr_of_target ha]⟩)))
  · rw [hd] at h ⊢
    exact (exec_command_checksums (decodeCmd_isCommand hi) h).imp_right (Or.imp_right .inl)

/-- A step that is neither a host access nor `rst_n` keeps S8 and C32. -/
theorem step_checksums {s t : State} (h : step s = .next t) :
    ChecksumsKept s t ∨ s.nextInput = .rstN ∨
      ∃ acc, s.nextInput = .host acc ∧ exec (decode acc) s.popInput = .next t := by
  have hpop {u : State} (hu : ChecksumsKept s.popInput u) : ChecksumsKept s u := by
    simpa [ChecksumsKept] using hu
  rcases step_cases h with ⟨acc, hin, h⟩ | (rfl | rfl) | (rfl | rfl) | ⟨r, rfl⟩ | ⟨hin, -⟩
  · exact .inr (.inr ⟨acc, hin, h⟩)
  · exact .inl (.of_regs (serializerStep_regs s))
  · exact .inl (hpop (.of_regs (serializerStep_regs _)))
  · exact .inl (samplerStep_errGrows s).checksumsKept
  · exact .inl (hpop (samplerStep_errGrows _).checksumsKept)
  · exact .inl (hpop (.of_regs (clockEdge_regs r _)))
  · exact .inr (.inl hin)

end Sys2Proof.Machine

namespace Sys2Proof.Proofs
open Sys2Proof.Machine

/-- A word whose fields name no command is refused with BADOP (30_encoding.md R104). -/
theorem badopUnless_of_namedCommand {op : Nat} {ok : Nat → Prop}
    (h : ∀ w : Word, w.toNat / 2 ^ 24 = op → ¬ ok (w.toNat % 2 ^ 24) → namedCommand w = none) (s : State) :
    badopUnless op ok s := fun w hop harg =>
  ((commandWordRunsOrIsRefused w s).2 (h w hop harg)).2

/-- Settles O8: the sum of bytes is modulo 256, a byte of CRC32 is eight bit-serial steps, and the refused words name no
command. -/
theorem checksumCommandsUpdateTheirRegister : Obligations.ChecksumCommandsUpdateTheirRegister := by
  intro s b
  refine ⟨rfl, ?add, rfl, execC32Add_eq_foldl b s, ?_, ?_, ?_, ?_⟩
  case add => rw [ofNat_add_mod_eq]; rfl
  all_goals
    refine badopUnless_of_namedCommand (fun w hop harg => ?_) s
    simp only [namedCommand, hop]
    simpa using harg

/-- Settles O9: of the agents only the host reaches S8 and C32, by the accesses named; and each of the four commands
writes the registers alone. -/
theorem checksumUnitsAreTheHosts : Obligations.ChecksumUnitsAreTheHosts := by
  refine ⟨fun s t h => ?_, fun i s t h hi => ?_⟩
  · rcases step_checksums h with hk | hrst | ⟨acc, hin, h⟩
    · exact .inl hk
    · exact .inr (.inl hrst)
    · rcases hostAccess_checksums h with hk | hacc
      · exact .inl (by simpa [ChecksumsKept] using hk)
      · exact .inr (.inr ⟨acc, hin, by simpa only [isChecksumCommand, or_assoc] using hacc⟩)
  · rcases hi with rfl | ⟨b, rfl⟩ | rfl | ⟨b, rfl⟩ <;> obtain rfl := next_inj h <;> exact ⟨rfl, rfl, rfl, rfl⟩

end Sys2Proof.Proofs
end

section
/-! PROOFS. The transmit commands TX_FRAME and TX_RAW (41_frame_tx.md R172, R178), and what a transmission sends, frozen
while it is in progress (R179, 70_reset_and_hazards.md R470). -/

namespace Sys2Proof.Machine

/-- What a transmission sends is the same in `t` as in `s`, but for bytes gone from the front of TXQ. -/
structure TxInputsKept (s t : State) : Prop where
  txLen : t.tx.txLen = s.tx.txLen
  txInstr : t.regs.txInstr = s.regs.txInstr
  frameCfg : t.regs.frameCfg = s.regs.frameCfg
  c32init : t.regs.c32init = s.regs.c32init
  byte : ∀ j, t.byte .txbuf j = s.byte .txbuf j
  txq : t.tx.txq <:+ s.tx.txq

section
variable {s t : State}

theorem TxInputsKept.trans {u : State} (h : TxInputsKept s t) (h' : TxInputsKept t u) : TxInputsKept s u :=
  ⟨h'.txLen.trans h.txLen, h'.txInstr.trans h.txInstr, h'.frameCfg.trans h.frameCfg, h'.c32init.trans h.c32init,
    fun j => (h'.byte j).trans (h.byte j), h'.txq.trans h.txq⟩

theorem TxInputsKept.of_errGrows (hlen : t.tx.txLen = s.tx.txLen) (hq : t.tx.txq <:+ s.tx.txq) (herr : errGrows s t)
    (hbyte : ∀ j, t.byte .txbuf j = s.byte .txbuf j) : TxInputsKept s t := by
  obtain ⟨m, hm⟩ := herr
  exact ⟨hlen, by rw [hm], by rw [hm], by rw [hm], hbyte, hq⟩

theorem TxInputsKept.of_tx (htx : t.tx = s.tx) (herr : errGrows s t) (hbyte : ∀ j, t.byte .txbuf j = s.byte .txbuf j) :
    TxInputsKept s t :=
  .of_errGrows (by rw [htx]) (by rw [htx]) herr hbyte

theorem TxInputsKept.refl (s : State) : TxInputsKept s s := .of_tx rfl (errGrows_refl s) fun _ => rfl

theorem TxInputsKept.flag (e : Err) (s : State) : TxInputsKept s (flagErr e s) :=
  .of_tx rfl (errGrows_flagErr e s) (flagErr_byte e s .txbuf)

theorem TxInputsKept.popInput (s : State) : TxInputsKept s s.popInput :=
  .of_tx (popInput_tx s) (errGrows_of_regs (popInput_regs s)) (popInput_byte s .txbuf)

/-! ## The host -/

/-- The commands that write what a transmission sends, or start one. -/
def isTransmitCommand (i : Instr) : Prop := i = .txbClr ∨ i = .txFrame ∨ i = .txRaw ∨ i = .ucBuild

theorem exec_transmitCommand_of_busy {i : Instr} (hi : isTransmitCommand i) (hb : s.tx.txBusy = true) :
    exec i s = .next (flagErr .busy s) := by
  rcases hi with rfl | rfl | rfl | rfl
  · simp [exec, execTxbClr, hb]
  · simp [exec, execTxFrame, hb]
  · simp [exec, execTxRaw, hb]
  · simp [exec, execUcBuild, hb]

/-- Apart from those commands and SRST, no command touches the transmit side. -/
theorem exec_command_keeps_tx {i : Instr} (hi : (encodeCmd i).isSome = true) (hs : i ≠ .srst)
    (htx : ¬ isTransmitCommand i) (h : exec i s = .next t) : t.tx = s.tx := by
  cases i <;> simp [encodeCmd, isTransmitCommand] at hi hs htx <;> simp only [exec] at h
  case nop | s8Clr | s8Add | c32Init | c32Add | rxbRel | canbClr => exact next_inj h ▸ rfl
  case ucCheck l =>
    rcases execUcCheck_cases l s with ⟨-, hc⟩ | ⟨-, hc⟩ <;> obtain rfl := next_inj (hc.symm.trans h) <;> rfl
  case palTx =>
    rcases execPalTx_cases s with ⟨-, hc⟩ | ⟨-, _, -, hc⟩ <;> obtain rfl := next_inj (hc.symm.trans h) <;> rfl
  case palSeg => exact (execPalSeg_frame h).tx
  case palAbort => exact (execPalAbort_frame h).tx

theorem exec_command_txInputsKept {i : Instr} (hb : s.tx.txBusy = true) (hi : (encodeCmd i).isSome = true)
    (hs : i ≠ .srst) (h : exec i s = .next t) : TxInputsKept s t := by
  by_cases htx : isTransmitCommand i
  · exact next_inj ((exec_transmitCommand_of_busy htx hb).symm.trans h) ▸ .flag .busy s
  · have hf := exec_command_frame hi hs h
    have hnot : ¬ owns i .txbuf := by
      rintro (rfl | ⟨v, rfl⟩)
      · simp [isTransmitCommand] at htx
      · simp [encodeCmd] at hi
    have heq : t.tx = s.tx := exec_command_keeps_tx hi hs htx h
    exact ⟨by rw [heq], hf.txInstr, hf.frameCfg, hf.c32init,
      ((exec_command_ownerFrame hi h).byte .txbuf).resolve_left hnot, by rw [heq]⟩

theorem execBusRead_txInputsKept {a : Addr} (h : execBusRead a s = .next t) : TxInputsKept s t := by
  obtain ⟨-, -, -, -, hmem, ⟨_, henv⟩, -, ⟨_, htx⟩, herr⟩ := execBusRead_frame h
  exact .of_errGrows (by rw [htx]) (by rw [htx]) herr
    (byte_congr_mem hmem (by rw [henv]) (by rw [henv]) .txbuf)

/-- While a transmission is in progress the writes of FRAMECFG, C32INIT, TXINSTR and TXDATA are refused. -/
theorem writeReg_txInputsKept {r : Reg} {v : Word} (hb : s.tx.txBusy = true) (hr : r ≠ .cmd)
    (h : writeReg r v s = .next t) : TxInputsKept s t := by
  have hcases := writeReg_cases v s hr
  -- Those four pass their BUSY check only when idle, so ten of the fourteen cases are left.
  simp only [hb, Bool.true_eq_false, false_and, and_false, false_or] at hcases
  rcases hcases with ⟨_, -, hc⟩ | ⟨-, hc⟩ | ⟨-, hc⟩ | ⟨-, hc⟩ | ⟨-, hc⟩ | ⟨-, hc⟩ | ⟨-, hc⟩ | ⟨-, hc⟩ |
    ⟨-, -, hc⟩ | hc <;> obtain rfl := next_inj (hc.symm.trans h)
  on_goal 2 => rw [writeCtrl_eq]
  -- A push to CANDATA, the one write left that stores a byte, leaves TXBUF's store.
  all_goals exact ⟨rfl, rfl, rfl, rfl, byte_congr (b := .txbuf) rfl rfl, List.suffix_rfl⟩

/-- SRST ends a transmission; any other host access keeps what one in progress sends. -/
theorem hostAccess_txInputsKept {acc : BusAccess} (hb : s.tx.txBusy = true) (hb' : t.tx.txBusy = true)
    (h : exec (decode acc) s = .next t) : TxInputsKept s t := by
  rcases hostAccess_cases h with rfl | ⟨i, hi, hs, hc⟩ | ⟨a, hc⟩ | ⟨a, r, v, -, -, hr, hc⟩ | rfl | ⟨e, rfl⟩
  · have hsrst : decode (.write 0x0010 0x01000000) = .srst := by decide
    rw [hsrst] at h
    obtain rfl : softReset s = t := next_inj h
    simp [State.reset] at hb'
  · exact exec_command_txInputsKept hb hi hs hc
  · exact execBusRead_txInputsKept hc
  · exact writeReg_txInputsKept hb hr hc
  · exact .refl t
  · exact .flag e s

end

/-! ## The engines -/

/-- The serializer leaves TXLEN, and takes bytes from TXQ at its front (44_serial.md R302, R304). -/
theorem serializerTick_txLen_txq (t : Transmitter) :
    (serializerTick t).txLen = t.txLen ∧ (serializerTick t).txq <:+ t.txq := by
  rcases serializerTick_cases t with ⟨-, -, ht⟩ | ⟨b, rest, n, hq, -, ht⟩ | ⟨-, -, ht⟩ | ⟨x, c, n, -, -, -, -, ht⟩ <;>
    rw [ht]
  · exact ⟨rfl, List.suffix_rfl⟩
  · exact ⟨rfl, hq ▸ List.suffix_cons b rest⟩
  · rcases endTx_cases { t with txb := satInc64 t.txb, utxCnt := t.utxCnt + 1, utxst := .tidle } with
      ⟨-, he⟩ | ⟨-, he⟩ <;> rw [he] <;> exact ⟨rfl, List.suffix_rfl⟩
  · exact ⟨rfl, List.suffix_rfl⟩

theorem serializerStep_txInputsKept (s : State) : TxInputsKept s (serializerStep s) := by
  rcases serializerStep_cases s with ⟨-, h⟩ | ⟨-, h⟩ <;> rw [h]
  · obtain ⟨hlen, hq⟩ := serializerTick_txLen_txq s.tx
    exact ⟨hlen, rfl, rfl, rfl, fun _ => rfl, hq⟩
  · exact .refl s

theorem samplerStep_tx (s : State) : (samplerStep s).tx = s.tx := by
  rcases samplerStep_cases s with ⟨r, -, h⟩ | ⟨-, h⟩ <;> rw [h]
  exact (samplerTick_frame r { s with tick := { s.tick with rxOwed := none } }).tx

theorem samplerStep_txInputsKept (s : State) : TxInputsKept s (samplerStep s) :=
  .of_tx (samplerStep_tx s) (samplerStep_errGrows s) (samplerStep_byte s nofun nofun)

theorem clockEdge_txInputsKept (r : Bool) (s : State) : TxInputsKept s (clockEdge r s) :=
  .of_tx (clockEdge_tx r s) (errGrows_of_regs (clockEdge_regs r s)) (clockEdge_byte r s .txbuf)

/-- Both resets end a transmission, so a step between two busy states is neither. -/
theorem step_txInputsKept {s t : State} (hb : s.tx.txBusy = true) (hb' : t.tx.txBusy = true) (h : step s = .next t) :
    TxInputsKept s t := by
  have hpop := TxInputsKept.popInput s
  rcases step_cases h with ⟨acc, -, h⟩ | (rfl | rfl) | (rfl | rfl) | ⟨r, rfl⟩ | ⟨-, rfl⟩
  · exact hpop.trans (hostAccess_txInputsKept (by rwa [popInput_tx]) hb' h)
  · exact serializerStep_txInputsKept s
  · exact hpop.trans (serializerStep_txInputsKept _)
  · exact samplerStep_txInputsKept s
  · exact hpop.trans (samplerStep_txInputsKept _)
  · exact hpop.trans (clockEdge_txInputsKept r _)
  · simp [State.reset] at hb'

end Sys2Proof.Machine

namespace Sys2Proof.Proofs
open Sys2Proof.Machine

/-- Settles O17: a host access that would change what is being sent is refused with BUSY, and of the engines only the
serializer takes from TXQ, at its front. -/
theorem transmitInputsFrozenWhileBusy : Obligations.TransmitInputsFrozenWhileBusy := fun _ _ h hb hb' =>
  have hk := step_txInputsKept hb hb' h
  ⟨hk.txLen, hk.txInstr, hk.frameCfg, hk.c32init, hk.byte, hk.txq⟩

/-- Of the commands only S8_ADD, C32_ADD and UC_CHECK take an argument (30_encoding.md R103). -/
theorem badopUnless_of_no_argument {op : Nat} (hs8 : op ≠ 0x11) (hc32 : op ≠ 0x19) (huc : op ≠ 0x41) (s : State) :
    badopUnless op (· = 0) s :=
  badopUnless_of_namedCommand (fun w hop hlow => by
    simp only [namedCommand, hop, if_neg hs8, if_neg hc32, if_neg huc, ne_eq, hlow, not_false_eq_true, if_true]) s

/-- Settles O12, check by check: each refusal is `flagErr` of its kind, whose bit of ERR is the statement's. -/
theorem txFrameQueuesFrame : Obligations.TxFrameQueuesFrame := by
  refine fun s => ⟨badopUnless_of_no_argument (by decide) (by decide) (by decide) s, ?_⟩
  have hmode : (!s.txEn || s.passthru) = true ↔ s.txEn = false ∨ s.passthru = true := by simp
  have harg : (!s.regs.frameCfg.lw && decide (255 < s.tx.txLen)) = true ↔
      s.regs.frameCfg.lw = false ∧ 255 < s.tx.txLen := by simp
  simp only [exec, execTxFrame, hmode, harg]
  split_ifs <;> rfl

/-- Settles O13, check by check, with and without bytes. -/
theorem txRawQueuesBytes : Obligations.TxRawQueuesBytes := by
  refine fun s => ⟨badopUnless_of_no_argument (by decide) (by decide) (by decide) s, ?_⟩
  have hmode : (!s.txEn || !s.passthru) = true ↔ s.txEn = false ∨ s.passthru = false := by simp
  simp only [exec, execTxRaw, hmode]
  split_ifs <;> rfl

end Sys2Proof.Proofs
end

section
/-! PROOFS. The deframer's step, one equation per state and outcome (42_frame_rx.md R202 to R211), and the statements
about a frame that is dropped or published. -/

namespace Sys2Proof.Machine

/-- A field's value with its next byte taken in, most significant byte first (42_frame_rx.md R203, R205). -/
def shiftIn {w : Nat} (x : BitVec w) (b : Byte) : BitVec w := (x <<< 8) ||| b.setWidth w

theorem toNat_shiftIn {w : Nat} (hw : 8 ≤ w) (x : BitVec w) (b : Byte) :
    (shiftIn x b).toNat = (x.toNat * 256 + b.toNat) % 2 ^ w := by
  have hb : b.toNat % 2 ^ w = b.toNat := Nat.mod_eq_of_lt (b.isLt.trans_le (Nat.pow_le_pow_right (by decide) hw))
  rw [shiftIn, BitVec.toNat_or, BitVec.toNat_shiftLeft, BitVec.toNat_setWidth, ← Nat.or_mod_two_pow,
    ← Nat.shiftLeft_add_eq_or_of_lt b.isLt, Nat.shiftLeft_eq]

/-! ## The equations -/

section
variable {s : State} (b : Byte)

theorem deframe_hunt (h : s.df.rxst = .hunt) : deframe b s = hunt b s := by
  simp only [deframe, h]

theorem deframe_len_more (h : s.df.rxst = .len) (hi : s.df.rxI + 1 ≠ lenBytes s.regs.frameCfg) :
    deframe b s = { s with df := { s.df.acc b with rxLen := shiftIn s.df.rxLen b, rxI := s.df.rxI + 1 } } := by
  simp only [deframe, h]
  exact if_neg hi

theorem deframe_len_overlong (h : s.df.rxst = .len) (hi : s.df.rxI + 1 = lenBytes s.regs.frameCfg)
    (hlen : Config.maxRxLen < (shiftIn s.df.rxLen b).toNat) :
    deframe b s = drop .rxlong b
      { s with df := { s.df.acc b with rxLen := shiftIn s.df.rxLen b, rxI := s.df.rxI + 1 } } := by
  simp only [deframe, h]
  exact (if_pos hi).trans (if_pos hlen)

theorem deframe_len_last (h : s.df.rxst = .len) (hi : s.df.rxI + 1 = lenBytes s.regs.frameCfg)
    (hlen : (shiftIn s.df.rxLen b).toNat ≤ Config.maxRxLen) :
    deframe b s = { s with df := { s.df.acc b with
      rxLen := shiftIn s.df.rxLen b, rxI := 0,
      rxst := if 0 < s.regs.frameCfg.iw.val then .instr else afterHeader (shiftIn s.df.rxLen b) } } := by
  simp only [deframe, h]
  exact (if_pos hi).trans (if_neg (Nat.not_lt.mpr hlen))

theorem deframe_instr_more (h : s.df.rxst = .instr) (hi : s.df.rxI + 1 ≠ s.regs.frameCfg.iw.val) :
    deframe b s = { s with df := { s.df.acc b with rxInstr := shiftIn s.df.rxInstr b, rxI := s.df.rxI + 1 } } := by
  simp only [deframe, h]
  exact if_neg hi

theorem deframe_instr_last (h : s.df.rxst = .instr) (hi : s.df.rxI + 1 = s.regs.frameCfg.iw.val) :
    deframe b s = { s with df := { s.df.acc b with
      rxInstr := shiftIn s.df.rxInstr b, rxI := 0, rxst := afterHeader s.df.rxLen } } := by
  simp only [deframe, h]
  exact if_pos hi

theorem deframe_pay (h : s.df.rxst = .pay) :
    deframe b s = { s.putBytes .asm s.df.rxJ [b] with df := { s.df.acc b with
      rxJ := s.df.rxJ + 1, rxst := if s.df.rxJ + 1 = s.df.rxLen.toNat then .chk else .pay } } := by
  simp only [deframe, h]
  rfl

theorem deframe_chk_sum8 (h : s.df.rxst = .chk) (hc : s.regs.frameCfg.chk = .sum8) :
    deframe b s = { s with df := { s.df with rxChk := b, rxst := .endm } } := by
  simp only [deframe, h, stepChk, hc]

theorem deframe_chk_crc32 (h : s.df.rxst = .chk) (hc : s.regs.frameCfg.chk = .crc32) :
    deframe b s = { s with df := { s.df with rxC32 := crc32Byte s.df.rxC32 b, rxI := s.df.rxI + 1,
                                             rxst := if s.df.rxI + 1 = 4 then .endm else .chk } } := by
  simp only [deframe, h, stepChk, hc]

theorem deframe_endm_bad (h : s.df.rxst = .endm) (hbad : b = s.regs.frameCfg.em → frameGood s = false) :
    deframe b s = drop .rxfrm b s := by
  simp only [deframe, h, stepEnd]
  by_cases hb : b = s.regs.frameCfg.em
  · simp [hb, hbad hb]
  · exact if_pos hb

theorem deframe_endm_good (h : s.df.rxst = .endm) (hgood : frameGood s = true) :
    deframe s.regs.frameCfg.em s = toHunt (accept s) := by
  simp [deframe, h, stepEnd, hgood]

end
end Sys2Proof.Machine

namespace Sys2Proof.Machine

/-! ## The check and the counts -/

theorem frameGood_iff (s : State) : frameGood s = true ↔
    (s.regs.frameCfg.chk = .sum8 ∧ s.df.rxS8 = s.df.rxChk) ∨ (s.regs.frameCfg.chk = .crc32 ∧ s.df.rxC32 = 0) := by
  unfold frameGood
  split <;> simp [*]

theorem frameGood_eq_false_iff (s : State) : frameGood s = false ↔
    (s.regs.frameCfg.chk = .sum8 ∧ s.df.rxS8 ≠ s.df.rxChk) ∨ (s.regs.frameCfg.chk = .crc32 ∧ s.df.rxC32 ≠ 0) := by
  unfold frameGood
  split <;> simp [*]

/-- A 16-bit saturating count as a number (10_state.md R48). -/
theorem satInc16_eq_ofNat_min (v : BitVec 16) : satInc16 v = BitVec.ofNat 16 (min (v.toNat + 1) (2 ^ 16 - 1)) := by
  apply BitVec.eq_of_toNat_eq
  unfold satInc16
  split
  · rename_i h; subst h; rfl
  · rename_i h
    have hne : v.toNat ≠ 2 ^ 16 - 1 := fun he => h (BitVec.eq_of_toNat_eq (by simpa using he))
    have hlt := v.isLt
    rw [BitVec.toNat_add, BitVec.toNat_ofNat, min_eq_left (by omega)]
    rfl

theorem dropFrame_eq (e : Err) (s : State) : dropFrame e s =
    { s with
      regs := { s.regs with err := s.regs.err ||| e.mask }
      hold := { s.hold with cntBadframe := BitVec.ofNat 16 (min (s.hold.cntBadframe.toNat + 1) (2 ^ 16 - 1)) }
      df := { s.df with rxst := .hunt } } := by
  rw [← satInc16_eq_ofNat_min]; rfl

theorem hunt_rxst {b : Byte} {s : State} (h : s.df.rxst = .hunt) :
    (hunt b s).df.rxst = if b = s.regs.frameCfg.sm then .len else .hunt := by
  unfold hunt
  split
  · rfl
  · exact h

theorem accept_of_full {s : State} (h : s.hold.rxFull = true) : accept s =
    { flagErr .rxovr s with hold := { s.hold with cntOverrun := satInc16 s.hold.cntOverrun } } :=
  if_pos h

theorem accept_of_free {s : State} (h : s.hold.rxFull = false) : accept s =
    { s.putBytes .rxbuf 0 (s.bytes .asm 0 s.df.rxLen.toNat) with
      hold := { s.hold with rxLen := s.df.rxLen.toNat, rxInstr := s.df.rxInstr, rxFull := true } } :=
  if_neg (by simp [h])

/-- The bytes copied from one buffer to the start of another, and the rest of both as they were. -/
theorem byte_putBytes_bytes (s : State) (b c d : Buffer) (n j : Nat) :
    (s.putBytes b 0 (s.bytes c 0 n)).byte d j = if d = b ∧ j < n then s.byte c j else s.byte d j := by
  rw [putBytes_byte]
  by_cases h : d = b ∧ j < n
  · simp [h, State.bytes]
  · rw [if_neg h, if_neg (by simpa using h)]

end Sys2Proof.Machine

namespace Sys2Proof.Proofs
open Sys2Proof.Machine

/-- Settles O22: both ways a frame can be bad drop it, and a dropped frame leaves its byte to HUNT. -/
theorem badFrameIsDroppedAndByteRescanned : Obligations.BadFrameIsDroppedAndByteRescanned := by
  intro s b h hbad
  have hgood : b = s.regs.frameCfg.em → frameGood s = false := fun hb =>
    (frameGood_eq_false_iff s).mpr (hbad.resolve_left (not_not_intro hb))
  rw [deframe_endm_bad b h hgood, deframe_hunt b rfl, drop, dropFrame_eq]
  rfl

/-- Settles O23: ACCEPT copies ASM to RXBUF when the hold buffer is free, and only counts when it is not. -/
theorem goodFrameIsPublishedOrOverruns : Obligations.GoodFrameIsPublishedOrOverruns := by
  intro s h hgood t
  have ht : t = toHunt (accept s) := deframe_endm_good h ((frameGood_iff s).mpr hgood)
  rcases Bool.eq_false_or_eq_true s.hold.rxFull with hfull | hfree
  · rw [accept_of_full hfull, satInc16_eq_ofNat_min] at ht
    rw [ht]
    exact ⟨rfl, rfl, rfl, rfl, rfl, rfl, by simp [hfull], fun _ => ⟨rfl, rfl, byte_congr_mem rfl rfl rfl⟩⟩
  · rw [accept_of_free hfree] at ht
    have hbyte (b : Buffer) (j : Nat) :
        t.byte b j = if b = .rxbuf ∧ j < s.df.rxLen.toNat then s.byte .asm j else s.byte b j := by
      rw [← byte_putBytes_bytes, ht]
      exact byte_congr_mem rfl rfl rfl b j
    have hpub (j : Nat) (hj : j < s.df.rxLen.toNat) : t.byte .rxbuf j = s.byte .asm j := by
      rw [hbyte, if_pos ⟨rfl, hj⟩]
    have hkeep (b : Buffer) (j : Nat) (hj : b ≠ .rxbuf ∨ s.df.rxLen.toNat ≤ j) : t.byte b j = s.byte b j := by
      rw [hbyte, if_neg (fun hb => hj.elim (· hb.1) (Nat.not_le_of_lt hb.2))]
    rw [ht] at hpub hkeep ⊢
    exact ⟨rfl, rfl, rfl, rfl, rfl, rfl, fun _ => ⟨rfl, rfl, hpub, hkeep⟩, by simp [hfree]⟩

/-- Settles O24: the length's last byte is dropped like any frame's, and examined again in HUNT. -/
theorem overlongLengthIsDropped : Obligations.OverlongLengthIsDropped := by
  intro s b h hlw hi hlong t
  have hlen : Config.maxRxLen < (shiftIn s.df.rxLen b).toNat := by
    rw [toNat_shiftIn (by decide), Config.maxRxLen]; omega
  have ht := deframe_len_overlong b h (by simp [hi, lenBytes, hlw]) hlen
  obtain ⟨hf, hhold, hurx, hmem, hregs⟩ := hunt_frame b (dropFrame .rxlong
    { s with df := { s.df.acc b with rxLen := shiftIn s.df.rxLen b, rxI := s.df.rxI + 1 } })
  rw [← drop, ← ht] at hf hhold hurx hmem hregs
  refine ⟨hregs, by rw [hhold, dropFrame_hold, satInc16_eq_ofNat_min], ?_, hf.tx, hurx, ?_⟩
  · show (deframe b s).df.rxst = _
    rw [ht, drop, hunt_rxst rfl]; rfl
  · exact byte_congr_mem hmem (by rw [hf.env]; rfl) (by rw [hf.env]; rfl)

end Sys2Proof.Proofs
end

section
/-! PROOFS. A whole frame through the deframer: what each field leaves behind (42_frame_rx.md R202 to R208), and that a
frame the encoder makes is accepted (R218). -/

namespace Sys2Proof.Machine

/-- The deframer given bytes one after another. -/
def deframeAll (bs : List Byte) (s : State) : State := bs.foldl (fun s b => deframe b s) s

theorem deframeAll_nil (s : State) : deframeAll [] s = s := rfl

theorem deframeAll_cons (b : Byte) (bs : List Byte) (s : State) :
    deframeAll (b :: bs) s = deframeAll bs (deframe b s) := rfl

theorem deframeAll_append (as bs : List Byte) (s : State) :
    deframeAll (as ++ bs) s = deframeAll bs (deframeAll as s) := List.foldl_append

/-- ACC of several bytes (42_frame_rx.md R201). -/
def Deframer.accAll (d : Deframer) (bs : List Byte) : Deframer :=
  { d with rxS8 := sum8 d.rxS8 bs, rxC32 := crc32 d.rxC32 bs }

/-- A field's value with several bytes taken in. -/
def shiftInAll {w : Nat} (x : BitVec w) (bs : List Byte) : BitVec w := bs.foldl shiftIn x

/-! ## The field values -/

/-- The encoder's length field spells the length (30_encoding.md R111). -/
theorem toNat_shiftInAll_lenField {cfg : FrameCfg} {n : Nat} (hn : n ≤ if cfg.lw then 1024 else 255) :
    (shiftInAll (0 : BitVec 16) (lenField cfg n)).toNat = n := by
  unfold lenField
  split_ifs at hn ⊢ <;>
    simp only [shiftInAll, List.foldl_cons, List.foldl_nil, toNat_shiftIn (show 8 ≤ 16 by decide), BitVec.toNat_ofNat,
      BitVec.ofNat_eq_ofNat] <;>
    omega

/-- The first `k` of the `m` low bytes of a tag, most significant first, spell those bytes of the tag. -/
theorem toNat_shiftInAll_extractLsb' (tag : Word) {m k : Nat} (hm : m ≤ 4) (hk : k ≤ m) :
    (shiftInAll (0 : Word) ((List.range k).map fun j => tag.extractLsb' (8 * (m - 1 - j)) 8)).toNat =
      tag.toNat / 256 ^ (m - k) % 256 ^ k := by
  induction k with
  | zero => simp [shiftInAll, Nat.mod_one]
  | succ k ih =>
    have hbyte : (tag.extractLsb' (8 * (m - 1 - k)) 8).toNat = tag.toNat / 256 ^ (m - (k + 1)) % 256 := by
      rw [BitVec.extractLsb'_toNat, Nat.shiftRight_eq_div_pow, pow_mul, Nat.sub_sub, Nat.add_comm 1]
      rfl
    have hfits : 256 ^ (k + 1) ≤ 2 ^ 32 :=
      (Nat.pow_le_pow_right (by decide) (hk.trans hm)).trans (by decide)
    have hsplit : tag.toNat / 256 ^ (m - k) = tag.toNat / 256 ^ (m - (k + 1)) / 256 := by
      rw [Nat.div_div_eq_div_mul, ← pow_succ]; congr 2; omega
    have hlast : shiftInAll (0 : Word) ((List.range (k + 1)).map fun j => tag.extractLsb' (8 * (m - 1 - j)) 8) =
        shiftIn (shiftInAll 0 ((List.range k).map fun j => tag.extractLsb' (8 * (m - 1 - j)) 8))
          (tag.extractLsb' (8 * (m - 1 - k)) 8) := by
      simp only [shiftInAll, List.range_succ, List.map_append, List.foldl_append, List.map_singleton, List.foldl_cons,
        List.foldl_nil]
    have hvalue : tag.toNat / 256 ^ (m - k) % 256 ^ k * 256 + tag.toNat / 256 ^ (m - (k + 1)) % 256 =
        tag.toNat / 256 ^ (m - (k + 1)) % 256 ^ (k + 1) := by
      rw [hsplit, Nat.mul_comm, Nat.add_comm, ← Nat.mod_mul, ← pow_succ']
    rw [hlast, toNat_shiftIn (by decide), ih (by omega), hbyte, hvalue]
    exact Nat.mod_eq_of_lt ((Nat.mod_lt _ (by positivity)).trans_le hfits)

/-- The encoder's instruction field spells the low bytes of the tag (30_encoding.md R112). -/
theorem toNat_shiftInAll_instrField (cfg : FrameCfg) (tag : Word) :
    (shiftInAll (0 : Word) (instrField cfg tag)).toNat = tag.toNat % 256 ^ cfg.iw.val := by
  have hiw : cfg.iw.val ≤ 4 := Nat.le_of_lt_succ cfg.iw.isLt
  rw [instrField, toNat_shiftInAll_extractLsb' tag hiw le_rfl, Nat.sub_self, pow_zero, Nat.div_one]

/-! ## The phases -/

section
variable {s : State}

/-- LEN over the whole length field, its value being in range (R203, R204). -/
theorem deframeAll_len {bs : List Byte} (h : s.df.rxst = .len) (hne : bs ≠ [])
    (hi : s.df.rxI + bs.length = lenBytes s.regs.frameCfg)
    (hlen : (shiftInAll s.df.rxLen bs).toNat ≤ Config.maxRxLen) :
    deframeAll bs s = { s with df := { s.df.accAll bs with
      rxLen := shiftInAll s.df.rxLen bs, rxI := 0,
      rxst := if 0 < s.regs.frameCfg.iw.val then .instr else afterHeader (shiftInAll s.df.rxLen bs) } } := by
  induction bs generalizing s with
  | nil => exact absurd rfl hne
  | cons b bs ih =>
    rw [deframeAll_cons]
    cases bs with
    | nil => rw [deframe_len_last b h hi hlen]; rfl
    | cons c cs =>
      simp only [List.length_cons] at hi
      rw [deframe_len_more b h (by omega)]
      refine (ih ?_ (by simp) ?_ ?_).trans rfl
      · exact h
      · show s.df.rxI + 1 + (cs.length + 1) = lenBytes s.regs.frameCfg
        omega
      · exact hlen

/-- INSTR over the whole instruction field (R205). -/
theorem deframeAll_instr {bs : List Byte} (h : s.df.rxst = .instr) (hne : bs ≠ [])
    (hi : s.df.rxI + bs.length = s.regs.frameCfg.iw.val) :
    deframeAll bs s = { s with df := { s.df.accAll bs with
      rxInstr := shiftInAll s.df.rxInstr bs, rxI := 0, rxst := afterHeader s.df.rxLen } } := by
  induction bs generalizing s with
  | nil => exact absurd rfl hne
  | cons b bs ih =>
    rw [deframeAll_cons]
    cases bs with
    | nil => rw [deframe_instr_last b h hi]; rfl
    | cons c cs =>
      simp only [List.length_cons] at hi
      rw [deframe_instr_more b h (by omega)]
      refine (ih ?_ (by simp) ?_).trans rfl
      · exact h
      · show s.df.rxI + 1 + (cs.length + 1) = s.regs.frameCfg.iw.val
        omega

theorem putBytes_cons (b : Buffer) (i : Nat) (x : Byte) (xs : List Byte) :
    s.putBytes b i (x :: xs) = (s.putBytes b i [x]).putBytes b (i + 1) xs := by
  cases b <;> rfl

/-- PAY over the whole payload (R206). -/
theorem deframeAll_pay {bs : List Byte} (h : s.df.rxst = .pay) (hne : bs ≠ [])
    (hj : s.df.rxJ + bs.length = s.df.rxLen.toNat) :
    deframeAll bs s = { s.putBytes .asm s.df.rxJ bs with df := { s.df.accAll bs with
      rxJ := s.df.rxLen.toNat, rxst := .chk } } := by
  induction bs generalizing s with
  | nil => exact absurd rfl hne
  | cons b bs ih =>
    rw [deframeAll_cons, deframe_pay b h]
    cases bs with
    | nil => rw [if_pos (show s.df.rxJ + 1 = _ from hj), ← hj]; rfl
    | cons c cs =>
      simp only [List.length_cons] at hj
      rw [if_neg (by omega), putBytes_cons]
      refine (ih rfl (by simp) ?_).trans rfl
      show s.df.rxJ + 1 + (cs.length + 1) = s.df.rxLen.toNat
      omega

/-- CHK over the whole check field of a CRC32 frame (R208). -/
theorem deframeAll_chk_crc32 {bs : List Byte} (h : s.df.rxst = .chk) (hc : s.regs.frameCfg.chk = .crc32) (hne : bs ≠ [])
    (hi : s.df.rxI + bs.length = 4) :
    deframeAll bs s = { s with df := { s.df with rxC32 := crc32 s.df.rxC32 bs, rxI := 4, rxst := .endm } } := by
  induction bs generalizing s with
  | nil => exact absurd rfl hne
  | cons b bs ih =>
    rw [deframeAll_cons, deframe_chk_crc32 b h hc]
    cases bs with
    | nil => rw [if_pos (show s.df.rxI + 1 = _ from hi), show s.df.rxI + 1 = _ from hi]; rfl
    | cons c cs =>
      simp only [List.length_cons] at hi
      rw [if_neg (by omega)]
      refine (ih ?_ ?_ (by simp) ?_).trans rfl
      · rfl
      · exact hc
      · show s.df.rxI + 1 + (cs.length + 1) = 4
        omega

/-! ## The frame -/

theorem accAll_append (d : Deframer) (as bs : List Byte) : (d.accAll as).accAll bs = d.accAll (as ++ bs) := by
  simp only [Deframer.accAll, sum8, crc32, List.foldl_append]

/-- LEN and INSTR over both header fields; with IW = 0 there is no INSTR (R204, R205). -/
theorem deframeAll_header {n : Nat} (tag : Word) (h : s.df.rxst = .len) (hi : s.df.rxI = 0)
    (hlen : (shiftInAll s.df.rxLen (lenField s.regs.frameCfg n)).toNat ≤ Config.maxRxLen) :
    deframeAll (lenField s.regs.frameCfg n ++ instrField s.regs.frameCfg tag) s =
      { s with df := { s.df.accAll (lenField s.regs.frameCfg n ++ instrField s.regs.frameCfg tag) with
        rxLen := shiftInAll s.df.rxLen (lenField s.regs.frameCfg n)
        rxInstr := shiftInAll s.df.rxInstr (instrField s.regs.frameCfg tag)
        rxI := 0, rxst := afterHeader (shiftInAll s.df.rxLen (lenField s.regs.frameCfg n)) } } := by
  have hne : lenField s.regs.frameCfg n ≠ [] := by unfold lenField; split <;> simp
  rw [deframeAll_append, deframeAll_len h hne (by simp [hi]) hlen]
  by_cases hiw : 0 < s.regs.frameCfg.iw.val
  · have hne' : instrField s.regs.frameCfg tag ≠ [] := List.ne_nil_of_length_pos (by simpa using hiw)
    rw [if_pos hiw]
    refine (deframeAll_instr ?_ hne' ?_).trans ?_
    · rfl
    · simp
    · rw [← accAll_append]; rfl
  · have hnil : instrField s.regs.frameCfg tag = [] := List.eq_nil_of_length_eq_zero (by simpa using hiw)
    rw [if_neg hiw, hnil, List.append_nil]
    rfl

/-- PAY over the payload; an empty one goes straight to CHK (R201, R206). -/
theorem deframeAll_payload {p : List Byte} (h : s.df.rxst = afterHeader s.df.rxLen) (hj : s.df.rxJ = 0)
    (hp : p.length = s.df.rxLen.toNat) :
    deframeAll p s = { s.putBytes .asm 0 p with df := { s.df.accAll p with rxJ := p.length, rxst := .chk } } := by
  by_cases hne : p = []
  · have hlen : s.df.rxLen = 0 := BitVec.eq_of_toNat_eq (by simp [← hp, hne])
    have hst : s.df.rxst = .chk := by rw [h, afterHeader, if_pos hlen]
    subst hne
    rw [deframeAll_nil, ← hst, List.length_nil, ← hj]
    rfl
  · have hlen : s.df.rxLen ≠ 0 := fun h0 => hne (List.eq_nil_of_length_eq_zero (by rw [hp, h0]; rfl))
    rw [deframeAll_pay (by rw [h, afterHeader, if_neg hlen]) hne (by omega), hj, hp]

/-- CHK over the check field of the covered bytes: the check is then good (R207, R208, R210). -/
theorem deframeAll_check {init : Word} {cov : List Byte} (h : s.df.rxst = .chk) (hi : s.df.rxI = 0)
    (hs8 : s.df.rxS8 = sum8 0 cov) (hc32 : s.df.rxC32 = crc32 init cov) :
    ∃ d : Deframer, deframeAll (checkField s.regs.frameCfg init cov) s = { s with df := d } ∧ d.rxst = .endm ∧
      d.rxLen = s.df.rxLen ∧ d.rxInstr = s.df.rxInstr ∧ frameGood { s with df := d } = true := by
  unfold checkField
  cases hc : s.regs.frameCfg.chk with
  | sum8 =>
    exact ⟨_, deframe_chk_sum8 _ h hc, rfl, rfl, rfl, (frameGood_iff _).mpr (.inl ⟨hc, hs8⟩)⟩
  | crc32 =>
    refine ⟨_, deframeAll_chk_crc32 h hc (by simp [le32]) (by simp [hi, le32]), rfl, rfl, rfl,
      (frameGood_iff _).mpr (.inr ⟨hc, ?_⟩)⟩
    show crc32 s.df.rxC32 (le32 (crc32 init cov)) = 0
    rw [hc32, ← crc32_append]
    exact Proofs.crc32ZeroResidue.1 init cov

end

/-- The start of a frame (42_frame_rx.md R202). -/
def frameStarted (s : State) : State :=
  { s with df := { s.df with rxst := .len, rxI := 0, rxLen := 0, rxInstr := 0, rxJ := 0, rxS8 := 0,
                             rxC32 := s.regs.c32init } }

theorem deframe_startMarker {s : State} (h : s.df.rxst = .hunt) : deframe s.regs.frameCfg.sm s = frameStarted s := by
  rw [deframe_hunt _ h]; exact if_pos rfl

/-- The covered bytes of a frame, from its start: the payload is in ASM and both checks cover them (R203 to R206). -/
theorem deframeAll_covered {s : State} (tag : Word) {p : List Byte}
    (hp : p.length ≤ if s.regs.frameCfg.lw then 1024 else 255) :
    deframeAll (covered s.regs.frameCfg tag p) (frameStarted s) =
      { s.putBytes .asm 0 p with df := { (frameStarted s).df.accAll (covered s.regs.frameCfg tag p) with
        rxst := .chk, rxLen := shiftInAll 0 (lenField s.regs.frameCfg p.length)
        rxInstr := shiftInAll 0 (instrField s.regs.frameCfg tag), rxJ := p.length } } := by
  have hlen := toNat_shiftInAll_lenField hp
  have hmax : p.length ≤ Config.maxRxLen := hp.trans (by split <;> decide)
  rw [covered, deframeAll_append]
  have hheader := deframeAll_header (s := frameStarted s) (n := p.length) tag rfl rfl (by rwa [← hlen] at hmax)
  refine (congrArg (deframeAll p) hheader).trans ((deframeAll_payload rfl rfl hlen.symm).trans ?_)
  rw [← accAll_append _ (lenField s.regs.frameCfg p.length ++ instrField s.regs.frameCfg tag) p]
  rfl

/-- A whole frame comes to ACCEPT with its payload in ASM, its length and its tag's low bytes. -/
theorem deframeAll_frameOf {s : State} (tag : Word) {p : List Byte} (h : s.df.rxst = .hunt)
    (hp : p.length ≤ if s.regs.frameCfg.lw then 1024 else 255) :
    ∃ d : Deframer, d.rxLen.toNat = p.length ∧ d.rxInstr.toNat = tag.toNat % 256 ^ s.regs.frameCfg.iw.val ∧
      deframeAll (frameOf s.regs.frameCfg s.regs.c32init tag p) s =
        toHunt (accept { s.putBytes .asm 0 p with df := d }) := by
  rw [frameOf_eq_cons, deframeAll_cons, deframe_startMarker h, deframeAll_append, deframeAll_covered tag hp]
  obtain ⟨d, hcheck, hst, hlen, hinstr, hgood⟩ := deframeAll_check
    (s := { s.putBytes .asm 0 p with df := { (frameStarted s).df.accAll (covered s.regs.frameCfg tag p) with
      rxst := .chk, rxLen := shiftInAll 0 (lenField s.regs.frameCfg p.length)
      rxInstr := shiftInAll 0 (instrField s.regs.frameCfg tag), rxJ := p.length } })
    (init := s.regs.c32init) (cov := covered s.regs.frameCfg tag p) rfl rfl rfl rfl
  refine ⟨d, ?_, ?_, ?_⟩
  · rw [hlen]; exact toNat_shiftInAll_lenField hp
  · rw [hinstr]; exact toNat_shiftInAll_instrField s.regs.frameCfg tag
  · rw [deframeAll_append]
    exact (congrArg (deframeAll [s.regs.frameCfg.em]) hcheck).trans (deframe_endm_good hst hgood)

end Sys2Proof.Machine

namespace Sys2Proof.Proofs
open Sys2Proof.Machine

/-- Settles O21, field by field: SM starts the frame, the covered bytes put the payload in ASM, the check field makes
the check good, and EM publishes the frame. -/
theorem encodedFrameIsAccepted : Obligations.EncodedFrameIsAccepted := by
  intro s tag p hhunt hfree hp t
  obtain ⟨d, hlen, hinstr, hframe⟩ := deframeAll_frameOf tag hhunt hp
  have ht : t = _ := hframe.trans (congrArg toHunt (accept_of_free hfree))
  have hasm : ({ s.putBytes .asm 0 p with df := d } : State).bytes .asm 0 p.length = p :=
    putBytes_bytes_same s .asm 0 p
  rw [ht]
  dsimp only
  rw [hlen, hasm]
  exact ⟨rfl, rfl, rfl, hinstr, putBytes_bytes_same { s.putBytes .asm 0 p with df := d } .rxbuf 0 p, rfl, rfl, rfl⟩

end Sys2Proof.Proofs
end

section
/-! PROOFS. What DEFRAME and a tick of the sampler can do, once, and two things that every step keeps: the held frame
(42_frame_rx.md R216) and the receive side's modes (R214, 44_serial.md R316, R320). -/

namespace Sys2Proof.Machine

/-! ## The deframer and the sampler, by effect -/

theorem drop_eq (e : Err) (b : Byte) (s : State) : ∃ d, drop e b s = { dropFrame e s with df := d } := by
  rcases hunt_cases b (dropFrame e s) with ⟨-, h⟩ | ⟨-, h⟩ <;> exact ⟨_, h⟩

/-- What DEFRAME can do outside its own registers: nothing, store a payload byte, count a bad frame, or ACCEPT. -/
theorem deframe_cases (b : Byte) (s : State) :
    (∃ d, deframe b s = { s with df := d }) ∨
    (∃ d, deframe b s = { s.putBytes .asm s.df.rxJ [b] with df := d }) ∨
    (∃ e d, deframe b s = { dropFrame e s with df := d }) ∨
    (s.df.rxst = .endm ∧ deframe b s = toHunt (accept s)) := by
  cases h : s.df.rxst with
  | hunt =>
    rw [deframe_hunt b h]
    rcases hunt_cases b s with ⟨-, hs⟩ | ⟨-, hs⟩ <;> exact .inl ⟨_, hs⟩
  | len =>
    by_cases hi : s.df.rxI + 1 = lenBytes s.regs.frameCfg
    · by_cases hlen : (shiftIn s.df.rxLen b).toNat ≤ Config.maxRxLen
      · exact .inl ⟨_, deframe_len_last b h hi hlen⟩
      · obtain ⟨d, hd⟩ := drop_eq .rxlong b
          { s with df := { s.df.acc b with rxLen := shiftIn s.df.rxLen b, rxI := s.df.rxI + 1 } }
        exact .inr (.inr (.inl ⟨.rxlong, d, (deframe_len_overlong b h hi (Nat.not_le.mp hlen)).trans hd⟩))
    · exact .inl ⟨_, deframe_len_more b h hi⟩
  | instr =>
    by_cases hi : s.df.rxI + 1 = s.regs.frameCfg.iw.val
    · exact .inl ⟨_, deframe_instr_last b h hi⟩
    · exact .inl ⟨_, deframe_instr_more b h hi⟩
  | pay => exact .inr (.inl ⟨_, deframe_pay b h⟩)
  | chk =>
    cases hc : s.regs.frameCfg.chk with
    | sum8 => exact .inl ⟨_, deframe_chk_sum8 b h hc⟩
    | crc32 => exact .inl ⟨_, deframe_chk_crc32 b h hc⟩
  | endm =>
    by_cases hbad : b = s.regs.frameCfg.em → frameGood s = false
    · obtain ⟨d, hd⟩ := drop_eq .rxfrm b s
      exact .inr (.inr (.inl ⟨.rxfrm, d, (deframe_endm_bad b h hbad).trans hd⟩))
    · obtain ⟨rfl, hgood⟩ : b = s.regs.frameCfg.em ∧ frameGood s = true := by simpa using hbad
      exact .inr (.inr (.inr ⟨rfl, deframe_endm_good h hgood⟩))

/-- A property that the sampler's own registers do not show, and that the deframer and the raw FIFO keep, is kept by
every tick of the sampler. -/
theorem samplerTick_keeps {P : State → Prop}
    (hurx : ∀ s u, u.rawFifo = s.urx.rawFifo → P s → P { s with urx := u })
    (herr : ∀ e s, P s → P (flagErr e s))
    (hraw : ∀ b s, P s → P (pushRaw b s))
    (hdeframe : ∀ b s, P s → P (deframe b s))
    (hdrop : ∀ e s, P s → P (dropFrame e s))
    (r : Bool) {s : State} (hs : P s) : P (samplerTick r s) := by
  have hbyte (b : Byte) (s : State) (hs : P s) : P (receiveByte b s) := by
    unfold receiveByte deliver
    split
    · exact hraw _ _ (hurx s _ rfl hs)
    · exact hdeframe _ _ (hurx s _ rfl hs)
  have hframing (s : State) (hs : P s) : P (receiveFramingError s) := by
    unfold receiveFramingError deframeFramingError
    split
    · exact herr _ s hs
    · split
      · exact herr _ s hs
      · exact hdrop _ _ (herr _ s hs)
  rcases samplerTick_cases r s with ⟨u, hu, -, -, h⟩ | ⟨-, -, -, -, h⟩ | ⟨-, -, -, -, h⟩ <;> rw [h]
  · exact hurx s u hu hs
  · exact hurx _ _ rfl (hbyte _ _ (hurx s _ rfl hs))
  · exact hurx _ _ rfl (hframing _ (hurx s _ rfl hs))

/-! ## The held frame -/

/-- RXLEN, RXINSTR and RXBUF of `t` are those of `s`. -/
structure HeldKept (s t : State) : Prop where
  rxLen : t.hold.rxLen = s.hold.rxLen
  rxInstr : t.hold.rxInstr = s.hold.rxInstr
  byte : ∀ j, t.byte .rxbuf j = s.byte .rxbuf j

section
variable {s t : State}

theorem HeldKept.trans {u : State} (h : HeldKept s t) (h' : HeldKept t u) : HeldKept s u :=
  ⟨h'.rxLen.trans h.rxLen, h'.rxInstr.trans h.rxInstr, fun j => (h'.byte j).trans (h.byte j)⟩

theorem HeldKept.of_hold (hhold : t.hold = s.hold) (hbyte : ∀ j, t.byte .rxbuf j = s.byte .rxbuf j) : HeldKept s t :=
  ⟨by rw [hhold], by rw [hhold], hbyte⟩

theorem HeldKept.popInput (s : State) : HeldKept s s.popInput := .of_hold (popInput_hold s) (popInput_byte s .rxbuf)

/-- With RX_FULL = 1 the deframer leaves the frame held (R216). -/
theorem heldKept_deframe (b : Byte) (hfull : s.hold.rxFull = true) :
    (deframe b s).hold.rxFull = true ∧ HeldKept s (deframe b s) := by
  rcases deframe_cases b s with ⟨d, h⟩ | ⟨d, h⟩ | ⟨e, d, h⟩ | ⟨-, h⟩ <;> rw [h]
  on_goal 4 => rw [accept_of_full hfull]
  all_goals exact ⟨hfull, rfl, rfl, byte_congr rfl rfl⟩

theorem heldKept_samplerTick (r : Bool) (hfull : s.hold.rxFull = true) : HeldKept s (samplerTick r s) := by
  have hsame {t u : State} (hfull : u.hold.rxFull = t.hold.rxFull) (hk : HeldKept t u)
      (ht : t.hold.rxFull = true ∧ HeldKept s t) : u.hold.rxFull = true ∧ HeldKept s u :=
    ⟨hfull.trans ht.1, ht.2.trans hk⟩
  refine (samplerTick_keeps (P := fun t => t.hold.rxFull = true ∧ HeldKept s t)
    (fun _ _ _ => hsame rfl ⟨rfl, rfl, fun _ => rfl⟩) (fun _ _ => hsame rfl ⟨rfl, rfl, fun _ => rfl⟩) (fun b t => ?hraw)
    (fun b t ht => ?hdeframe) (fun _ _ => hsame rfl ⟨rfl, rfl, fun _ => rfl⟩) r ⟨hfull, rfl, rfl, fun _ => rfl⟩).2
  case hraw =>
    obtain ⟨hframe, hmem, -, hhold⟩ := pushRaw_frame b t
    exact hsame (by rw [hhold])
      (.of_hold hhold (byte_congr_mem hmem (by rw [hframe.env]) (by rw [hframe.env]) .rxbuf))
  case hdeframe =>
    obtain ⟨hf, hk⟩ := heldKept_deframe b ht.1
    exact ⟨hf, ht.2.trans hk⟩

theorem samplerStep_heldKept (hfull : s.hold.rxFull = true) : HeldKept s (samplerStep s) := by
  rcases samplerStep_cases s with ⟨r, -, h⟩ | ⟨-, h⟩ <;> rw [h]
  · have hk : HeldKept s { s with tick := { s.tick with rxOwed := none } } := ⟨rfl, rfl, fun _ => rfl⟩
    exact hk.trans (heldKept_samplerTick r hfull)
  · exact .of_hold rfl fun _ => rfl

/-- SRST clears RX_FULL; any other host access keeps the frame held, RXB_REL included. -/
theorem hostAccess_heldKept {acc : BusAccess} (hfull : t.hold.rxFull = true) (h : exec (decode acc) s = .next t) :
    HeldKept s t := by
  rcases hostAccess_hostFrame h with rfl | hf
  · have hsrst : decode (.write 0x0010 0x01000000) = .srst := by decide
    rw [hsrst] at h
    obtain rfl : softReset s = t := next_inj h
    simp [State.reset] at hfull
  · obtain ⟨b, hhold⟩ := hf.hold
    exact ⟨by rw [hhold], by rw [hhold], (hostAccess_byte h .rxbuf).resolve_left id⟩

end

end Sys2Proof.Machine

namespace Sys2Proof.Proofs
open Sys2Proof.Machine

/-- Settles O27: ACCEPT alone writes the hold buffer, and only when it is free; both resets free it. -/
theorem heldFrameIsStable : Obligations.HeldFrameIsStable := by
  intro s t h hfull hfull'
  have hpop := HeldKept.popInput s
  suffices hk : HeldKept s t from ⟨hk.rxLen, hk.rxInstr, hk.byte⟩
  rcases step_cases h with ⟨acc, -, h⟩ | (rfl | rfl) | (rfl | rfl) | ⟨r, rfl⟩ | ⟨-, rfl⟩
  · exact hpop.trans (hostAccess_heldKept hfull' h)
  · exact .of_hold (serializerStep_hold s) (serializerStep_byte s .rxbuf)
  · exact hpop.trans (.of_hold (serializerStep_hold _) (serializerStep_byte _ .rxbuf))
  · exact samplerStep_heldKept hfull
  · exact hpop.trans (samplerStep_heldKept (by rwa [popInput_hold]))
  · exact hpop.trans (.of_hold (clockEdge_hold r _) (clockEdge_byte r _ .rxbuf))
  · simp [State.reset] at hfull'

end Sys2Proof.Proofs

namespace Sys2Proof.Machine

/-! ## RX_EN and PASSTHRU -/

section
variable {s t : State}

/-- With CTRL as it was, putting the sampler in IDLE or the deframer in HUNT is all that the modes allow. -/
theorem receiveModes_of_ctrl (hctrl : t.regs.ctrl = s.regs.ctrl)
    (hurx : t.urx.urxst = s.urx.urxst ∨ t.urx.urxst = .idle) (hdf : t.df.rxst = s.df.rxst ∨ t.df.rxst = .hunt) (hs : receiveModes s) : receiveModes t := by
  obtain ⟨hoff, hpass⟩ := hs
  have hen : t.rxEn = s.rxEn := by rw [State.rxEn, hctrl, State.rxEn]
  have hthru : t.passthru = s.passthru := by rw [State.passthru, hctrl, State.passthru]
  refine ⟨fun h => ?_, fun h => ?_⟩
  · obtain ⟨hidle, hhunt⟩ := hoff (hen ▸ h)
    exact ⟨hurx.elim (·.trans hidle) id, hdf.elim (·.trans hhunt) id⟩
  · exact hdf.elim (·.trans (hpass (hthru ▸ h))) id

theorem receiveModes_of_eq (hctrl : t.regs.ctrl = s.regs.ctrl) (hurx : t.urx.urxst = s.urx.urxst) (hdf : t.df = s.df) :
    receiveModes s → receiveModes t :=
  receiveModes_of_ctrl hctrl (.inl hurx) (.inl (by rw [hdf]))

theorem receiveModes_of_idle (hidle : t.urx.urxst = .idle) (hhunt : t.df.rxst = .hunt) : receiveModes t :=
  ⟨fun _ => ⟨hidle, hhunt⟩, fun _ => hhunt⟩

theorem errGrows.ctrl (h : errGrows s t) : t.regs.ctrl = s.regs.ctrl := by
  obtain ⟨m, hm⟩ := h
  rw [hm]

theorem writeCtrl_urxst (v : Word) (s : State) :
    (writeCtrl v s).urx.urxst = if s.rxEn && !v.getLsbD 0 then .idle else s.urx.urxst := by
  rw [writeCtrl_eq, apply_ite Receiver.urxst]

theorem writeCtrl_rxst (v : Word) (s : State) : (writeCtrl v s).df.rxst =
    if (s.rxEn && !v.getLsbD 0) || (!s.passthru && v.getLsbD 2) then .hunt else s.df.rxst := by
  rw [writeCtrl_eq, apply_ite Deframer.rxst]

/-- A write of CTRL that turns RX_EN off idles the sampler, and one that turns RX_EN off or PASSTHRU on puts the
deframer in HUNT (45_control.md R347). -/
theorem receiveModes_writeCtrl (v : Word) (hs : receiveModes s) : receiveModes (writeCtrl v s) := by
  obtain ⟨hoff, hpass⟩ := hs
  have hen : (writeCtrl v s).rxEn = v.getLsbD 0 := by
    rw [writeCtrl_eq, State.rxEn, BitVec.getLsbD_extractLsb']; rfl
  have hthru : (writeCtrl v s).passthru = v.getLsbD 2 := by
    rw [writeCtrl_eq, State.passthru, BitVec.getLsbD_extractLsb']; rfl
  refine ⟨fun h => ?_, fun h => ?_⟩
  · rw [writeCtrl_urxst, writeCtrl_rxst, ← hen, h]
    cases hwas : s.rxEn
    · simp [hoff hwas]
    · simp
  · rw [writeCtrl_rxst, ← hthru, h]
    cases hwas : s.passthru
    · simp
    · simp [hpass hwas]

theorem receiveModes_writeReg {r : Reg} {v : Word} (hr : r ≠ .cmd) (hs : receiveModes s)
    (h : writeReg r v s = .next t) : receiveModes t := by
  rcases writeReg_cases v s hr with ⟨e, -, hc⟩ | ⟨-, hc⟩ | ⟨-, hc⟩ | ⟨-, hc⟩ | ⟨-, hc⟩ | ⟨-, -, hc⟩ | ⟨-, hc⟩ |
    ⟨-, -, hc⟩ | ⟨-, hc⟩ | ⟨-, hc⟩ | ⟨-, -, hc⟩ | ⟨-, -, -, hc⟩ | ⟨-, -, hc⟩ | hc <;>
    obtain rfl := next_inj (hc.symm.trans h)
  -- FRAMECFG puts the deframer in HUNT (R348), and CTRL is the register of the modes.
  on_goal 6 => exact receiveModes_of_ctrl (s := s) rfl (.inl rfl) (.inr rfl) hs
  on_goal 2 => exact receiveModes_writeCtrl v hs
  all_goals exact receiveModes_of_eq (s := s) rfl rfl rfl hs

/-- In passthrough mode no byte and no framing error reaches the deframer (44_serial.md R320). -/
theorem samplerTick_df_of_passthru (r : Bool) (h : s.passthru = true) : (samplerTick r s).df = s.df := by
  rcases samplerTick_cases r s with ⟨u, -, -, -, ht⟩ | ⟨-, -, -, -, ht⟩ | ⟨-, -, -, -, ht⟩ <;> rw [ht]
  · rw [setUrxst_df, receiveByte, deliver, if_pos (by exact h), (pushRaw_frame _ _).2.2.1]
  · rw [setUrxst_df, receiveFramingError, if_pos (by exact h), flagErr_df]

theorem receiveModes_samplerTick (r : Bool) (hs : receiveModes s) : receiveModes (samplerTick r s) := by
  have hctrl : (samplerTick r s).regs.ctrl = s.regs.ctrl := (samplerTick_frame r s).err.ctrl
  cases hen : s.rxEn
  · have hoff : samplerTick r s = setUrxst .idle s := by simp [samplerTick, hen]
    rw [hoff]
    exact receiveModes_of_ctrl (s := s) rfl (.inr rfl) (.inl rfl) hs
  · refine ⟨fun h => ?_, fun h => ?_⟩
    · rw [State.rxEn, hctrl] at h
      exact absurd (hen.symm.trans h) nofun
    · have hthru : s.passthru = true := by rwa [State.passthru, hctrl] at h
      rw [samplerTick_df_of_passthru r hthru]
      exact hs.2 hthru

end

end Sys2Proof.Machine

namespace Sys2Proof.Proofs
open Sys2Proof.Machine

/-- Settles O57: CTRL is written by the host alone, with R347's effect on the receive side; and a tick of the sampler
does nothing when RX_EN = 0 and leaves the deframer alone when PASSTHRU = 1. -/
theorem stepKeepsReceiveModes : Obligations.StepKeepsReceiveModes := by
  intro s t hs h
  refine step_keeps (P := receiveModes) ?hpop (fun i s t hi hs h => ?hcmd) (fun a s t hs h => ?hread)
    (fun r v s t hr => receiveModes_writeReg hr) (fun e s => receiveModes_of_eq rfl rfl rfl)
    (fun s => receiveModes_of_eq rfl rfl rfl) (fun r s hs => receiveModes_samplerTick r hs) ?hclk ?hrst hs h
  case hpop => exact fun s => receiveModes_of_eq (by rw [popInput_regs]) (by rw [popInput_urx]) (popInput_df s)
  case hcmd =>
    by_cases hi' : i = .srst
    · subst hi'
      exact next_inj h ▸ receiveModes_of_idle rfl rfl
    · have hf := exec_command_frame hi hi' h
      exact receiveModes_of_eq hf.ctrl (by rw [hf.urx]) hf.df hs
  case hread =>
    obtain ⟨hdf, -, -, -, -, -, ⟨f, v, -, hurx⟩, -, herr⟩ := execBusRead_frame h
    exact receiveModes_of_eq herr.ctrl (by rw [hurx]) hdf hs
  case hclk => exact fun r s => receiveModes_of_eq (by rw [clockEdge_regs]) (by rw [clockEdge_urx]) (clockEdge_df r s)
  case hrst => exact fun s _ => receiveModes_of_idle rfl rfl

end Sys2Proof.Proofs
end

section
/-! PROOFS. Which buffer bytes have been written (70_reset_and_hazards.md R452), and that every step keeps the bytes below
the length registers, and those of the frame in progress, among them. -/

namespace Sys2Proof.Machine

/-- Bytes 0 to n-1 of a buffer have been written. -/
def filled (s : State) (b : Buffer) (n : Nat) : Prop := ∀ j, j < n → (Memory.get (s.store b) j).isSome

section
variable {s t : State}

theorem filled_zero (s : State) (b : Buffer) : filled s b 0 := nofun

/-- The bytes of a buffer that are listed in `s` are listed in `t`. -/
def storeGrows (s t : State) (b : Buffer) : Prop :=
  ∀ j, (Memory.get (s.store b) j).isSome → (Memory.get (t.store b) j).isSome

theorem storeGrows_of_eq {b : Buffer} (h : t.store b = s.store b) : storeGrows s t b := by
  intro j hj; rwa [h]

theorem storeGrows.filled {b : Buffer} {n : Nat} (h : storeGrows s t b) (hs : filled s b n) : filled t b n :=
  fun j hj => h j (hs j hj)

theorem isSome_get_putBytes (s : State) (b c : Buffer) (i j : Nat) (bs : List Byte) :
    (Memory.get ((s.putBytes b i bs).store c) j).isSome ↔
      (c = b ∧ i ≤ j ∧ j < i + bs.length) ∨ (Memory.get (s.store c) j).isSome := by
  rw [putBytes_store]
  by_cases hc : c = b
  · subst hc
    rw [if_pos rfl, Memory.get_putList]
    by_cases hj : i ≤ j ∧ j < i + bs.length
    · have hlt : j - i < bs.length := by omega
      simp [hj, List.getElem?_eq_getElem hlt]
    · simp [hj]
  · simp [hc]

theorem storeGrows_putBytes (s : State) (b c : Buffer) (i : Nat) (bs : List Byte) :
    storeGrows s (s.putBytes b i bs) c :=
  fun j hj => (isSome_get_putBytes s b c i j bs).mpr (.inr hj)

/-- Bytes written after the filled ones of a buffer. -/
theorem filled_putBytes {b : Buffer} {i : Nat} (h : filled s b i) (bs : List Byte) :
    filled (s.putBytes b i bs) b (i + bs.length) := by
  intro j hj
  refine (isSome_get_putBytes s b b i j bs).mpr ?_
  by_cases hi : i ≤ j
  · exact .inl ⟨rfl, hi, hj⟩
  · exact .inr (h j (Nat.not_le.mp hi))

/-! ## The two conditions -/

/-- A length within its buffer's size, with every byte below it written. -/
def lengthWithin (s : State) (b : Buffer) (size n : Nat) : Prop := n ≤ size ∧ filled s b n

theorem lengthWithin_zero (s : State) (b : Buffer) (size : Nat) : lengthWithin s b size 0 :=
  ⟨Nat.zero_le size, filled_zero s b⟩

theorem storeGrows.lengthWithin {b : Buffer} {size m n : Nat} (h : storeGrows s t b) (hlen : n = m)
    (hs : lengthWithin s b size m) : lengthWithin t b size n :=
  hlen ▸ ⟨hs.1, h.filled hs.2⟩

theorem lengthsWritten_iff (s : State) : lengthsWritten s ↔
    lengthWithin s .txbuf Config.bufSize s.tx.txLen ∧ lengthWithin s .canbuf Config.canSize s.pal.canLen ∧
      lengthWithin s .rxbuf Config.maxRxLen s.hold.rxLen ∧ s.urx.rawFifo.length ≤ Config.rawDepth := by
  simp only [lengthWithin, and_assoc]
  rfl

theorem deframerInField_of_hunt (h : s.df.rxst = .hunt) : deframerInField s := by
  simp only [deframerInField, h]

theorem deframerInField_len_iff (h : s.df.rxst = .len) : deframerInField s ↔
    s.df.rxI < lenBytes s.regs.frameCfg ∧ s.df.rxJ = 0 := by
  simp only [deframerInField, h]

theorem deframerInField_instr_iff (h : s.df.rxst = .instr) : deframerInField s ↔
    s.df.rxI < s.regs.frameCfg.iw.val ∧ s.df.rxLen.toNat ≤ Config.maxRxLen ∧ s.df.rxJ = 0 := by
  simp only [deframerInField, h]

theorem deframerInField_pay_iff (h : s.df.rxst = .pay) : deframerInField s ↔
    s.df.rxI = 0 ∧ s.df.rxJ < s.df.rxLen.toNat ∧ s.df.rxLen.toNat ≤ Config.maxRxLen ∧ filled s .asm s.df.rxJ := by
  simp only [deframerInField, h]
  rfl

theorem deframerInField_chk_iff (h : s.df.rxst = .chk) : deframerInField s ↔
    (s.regs.frameCfg.chk = .crc32 → s.df.rxI < 4) ∧ s.df.rxLen.toNat ≤ Config.maxRxLen ∧
      filled s .asm s.df.rxLen.toNat := by
  simp only [deframerInField, h]
  rfl

theorem deframerInField_endm_iff (h : s.df.rxst = .endm) : deframerInField s ↔
    s.df.rxLen.toNat ≤ Config.maxRxLen ∧ filled s .asm s.df.rxLen.toNat := by
  simp only [deframerInField, h]
  rfl

/-- After the header, with nothing of the payload taken. -/
theorem deframerInField_of_afterHeader (h : s.df.rxst = afterHeader s.df.rxLen) (hi : s.df.rxI = 0) (hj : s.df.rxJ = 0)
    (hlen : s.df.rxLen.toNat ≤ Config.maxRxLen) : deframerInField s := by
  by_cases h0 : s.df.rxLen = 0
  · rw [deframerInField_chk_iff (by rw [h, afterHeader, if_pos h0])]
    refine ⟨fun _ => by omega, hlen, ?_⟩
    rw [h0]
    exact filled_zero s .asm
  · have hpos : 0 < s.df.rxLen.toNat := Nat.pos_of_ne_zero fun hz => h0 (BitVec.eq_of_toNat_eq hz)
    rw [deframerInField_pay_iff (by rw [h, afterHeader, if_neg h0]), hj]
    exact ⟨hi, hpos, hlen, filled_zero s .asm⟩

/-- The condition speaks of the deframer's own registers, FRAMECFG and the written bytes of ASM. -/
theorem deframerInField_of_asm_grows (hdf : t.df = s.df) (hcfg : t.regs.frameCfg = s.regs.frameCfg)
    (hasm : storeGrows s t .asm) (hs : deframerInField s) : deframerInField t := by
  cases h : s.df.rxst with
  | hunt => exact deframerInField_of_hunt (hdf ▸ h)
  | len =>
    rw [deframerInField_len_iff h] at hs
    rwa [deframerInField_len_iff (hdf ▸ h), hdf, hcfg]
  | instr =>
    rw [deframerInField_instr_iff h] at hs
    rwa [deframerInField_instr_iff (hdf ▸ h), hdf, hcfg]
  | pay =>
    obtain ⟨hi, hj, hlen, hfill⟩ := (deframerInField_pay_iff h).mp hs
    rw [deframerInField_pay_iff (hdf ▸ h), hdf]
    exact ⟨hi, hj, hlen, hasm.filled hfill⟩
  | chk =>
    obtain ⟨hi, hlen, hfill⟩ := (deframerInField_chk_iff h).mp hs
    rw [deframerInField_chk_iff (hdf ▸ h), hdf, hcfg]
    exact ⟨hi, hlen, hasm.filled hfill⟩
  | endm =>
    obtain ⟨hlen, hfill⟩ := (deframerInField_endm_iff h).mp hs
    rw [deframerInField_endm_iff (hdf ▸ h), hdf]
    exact ⟨hlen, hasm.filled hfill⟩

/-! ## The deframer -/

theorem lenBytes_pos (cfg : FrameCfg) : 0 < lenBytes cfg := by
  unfold lenBytes; split <;> decide

theorem deframerInField_hunt (b : Byte) (h : s.df.rxst = .hunt) : deframerInField (hunt b s) := by
  rcases hunt_cases b s with ⟨-, ht⟩ | ⟨-, ht⟩ <;> rw [ht]
  · exact (deframerInField_len_iff rfl).mpr ⟨lenBytes_pos _, rfl⟩
  · exact deframerInField_of_hunt h

theorem deframerInField_drop (e : Err) (b : Byte) (s : State) : deframerInField (drop e b s) :=
  deframerInField_hunt b rfl

theorem deframerInField_deframe (b : Byte) (hs : deframerInField s) : deframerInField (deframe b s) := by
  cases h : s.df.rxst with
  | hunt => exact deframe_hunt b h ▸ deframerInField_hunt b h
  | len =>
    obtain ⟨hlt, hj⟩ := (deframerInField_len_iff h).mp hs
    by_cases hi : s.df.rxI + 1 = lenBytes s.regs.frameCfg
    · by_cases hlen : (shiftIn s.df.rxLen b).toNat ≤ Config.maxRxLen
      · rw [deframe_len_last b h hi hlen]
        by_cases hiw : 0 < s.regs.frameCfg.iw.val
        · exact (deframerInField_instr_iff (if_pos hiw)).mpr ⟨hiw, hlen, hj⟩
        · exact deframerInField_of_afterHeader (if_neg hiw) rfl hj hlen
      · rw [deframe_len_overlong b h hi (Nat.not_le.mp hlen)]
        exact deframerInField_drop _ b _
    · rw [deframe_len_more b h hi]
      exact (deframerInField_len_iff (by exact h)).mpr ⟨lt_of_le_of_ne hlt hi, hj⟩
  | instr =>
    obtain ⟨hlt, hlen, hj⟩ := (deframerInField_instr_iff h).mp hs
    by_cases hi : s.df.rxI + 1 = s.regs.frameCfg.iw.val
    · rw [deframe_instr_last b h hi]
      exact deframerInField_of_afterHeader rfl rfl hj hlen
    · rw [deframe_instr_more b h hi]
      exact (deframerInField_instr_iff (by exact h)).mpr ⟨lt_of_le_of_ne hlt hi, hlen, hj⟩
  | pay =>
    obtain ⟨hi, hj, hlen, hfill⟩ := (deframerInField_pay_iff h).mp hs
    have hfill' : filled (s.putBytes .asm s.df.rxJ [b]) .asm (s.df.rxJ + 1) := filled_putBytes hfill [b]
    rw [deframe_pay b h]
    by_cases hlast : s.df.rxJ + 1 = s.df.rxLen.toNat
    · exact (deframerInField_chk_iff (if_pos hlast)).mpr ⟨fun _ => hi.trans_lt (by decide), hlen, hlast ▸ hfill'⟩
    · exact (deframerInField_pay_iff (if_neg hlast)).mpr ⟨hi, lt_of_le_of_ne hj hlast, hlen, hfill'⟩
  | chk =>
    obtain ⟨hi, hlen, hfill⟩ := (deframerInField_chk_iff h).mp hs
    cases hc : s.regs.frameCfg.chk with
    | sum8 =>
      rw [deframe_chk_sum8 b h hc]
      exact (deframerInField_endm_iff rfl).mpr ⟨hlen, hfill⟩
    | crc32 =>
      rw [deframe_chk_crc32 b h hc]
      by_cases h4 : s.df.rxI + 1 = 4
      · exact (deframerInField_endm_iff (if_pos h4)).mpr ⟨hlen, hfill⟩
      · exact (deframerInField_chk_iff (if_neg h4)).mpr ⟨fun _ => lt_of_le_of_ne (hi hc) h4, hlen, hfill⟩
  | endm =>
    by_cases hbad : b = s.regs.frameCfg.em → frameGood s = false
    · exact deframe_endm_bad b h hbad ▸ deframerInField_drop _ b s
    · obtain ⟨rfl, hgood⟩ : b = s.regs.frameCfg.em ∧ frameGood s = true := by simpa using hbad
      exact deframe_endm_good h hgood ▸ deframerInField_of_hunt rfl

/-- ACCEPT publishes only bytes of ASM that the frame has stored (R211). -/
theorem lengthsWritten_deframe (b : Byte) (hd : deframerInField s) (hs : lengthsWritten s) :
    lengthsWritten (deframe b s) := by
  obtain ⟨htx, hcan, -, hraw⟩ := (lengthsWritten_iff s).mp hs
  rcases deframe_cases b s with ⟨d, ht⟩ | ⟨d, ht⟩ | ⟨e, d, ht⟩ | ⟨h, ht⟩ <;> rw [ht]
  · exact hs
  · exact hs
  · exact hs
  · rcases accept_cases s with ⟨-, ha⟩ | ⟨-, ha⟩ <;> rw [ha]
    · exact hs
    · obtain ⟨hlen, -⟩ := (deframerInField_endm_iff h).mp hd
      have hpub := filled_putBytes (filled_zero s .rxbuf) (s.bytes .asm 0 s.df.rxLen.toNat)
      rw [Nat.zero_add, bytes_length] at hpub
      exact (lengthsWritten_iff _).mpr ⟨htx, hcan, ⟨hlen, hpub⟩, hraw⟩

/-! ## The other agents -/

/-- Both conditions. -/
def buffersWritten (s : State) : Prop := deframerInField s ∧ lengthsWritten s

/-- What keeps both conditions: the deframer goes on with its frame or gives it up, no listed byte of a buffer with a
length register is lost, and each length that rises has its bytes listed. -/
structure WriteFrame (s t : State) : Prop where
  deframer : t.df.rxst = .hunt ∨ (t.df = s.df ∧ t.regs.frameCfg = s.regs.frameCfg)
  asm : storeGrows s t .asm
  tx : lengthWithin s .txbuf Config.bufSize s.tx.txLen → lengthWithin t .txbuf Config.bufSize t.tx.txLen
  can : lengthWithin s .canbuf Config.canSize s.pal.canLen → lengthWithin t .canbuf Config.canSize t.pal.canLen
  rx : lengthWithin s .rxbuf Config.maxRxLen s.hold.rxLen → lengthWithin t .rxbuf Config.maxRxLen t.hold.rxLen
  raw : s.urx.rawFifo.length ≤ Config.rawDepth → t.urx.rawFifo.length ≤ Config.rawDepth

theorem WriteFrame.buffersWritten (h : WriteFrame s t) (hs : buffersWritten s) : buffersWritten t := by
  obtain ⟨hd, hl⟩ := hs
  obtain ⟨htx, hcan, hrx, hraw⟩ := (lengthsWritten_iff s).mp hl
  refine ⟨?_, (lengthsWritten_iff t).mpr ⟨h.tx htx, h.can hcan, h.rx hrx, h.raw hraw⟩⟩
  rcases h.deframer with hhunt | ⟨hdf, hcfg⟩
  · exact deframerInField_of_hunt hhunt
  · exact deframerInField_of_asm_grows hdf hcfg h.asm hd

/-- The deframer, the three lengths and the raw FIFO as they were, with perhaps more bytes written. -/
theorem WriteFrame.of_grows (hgrow : ∀ b, b ≠ .palbuf → b ≠ .segd → b ≠ .segl → storeGrows s t b) (hdf : t.df = s.df)
    (hcfg : t.regs.frameCfg = s.regs.frameCfg) (htx : t.tx.txLen = s.tx.txLen) (hcan : t.pal.canLen = s.pal.canLen)
    (hrx : t.hold.rxLen = s.hold.rxLen) (hraw : t.urx.rawFifo.length ≤ s.urx.rawFifo.length) : WriteFrame s t where
  deframer := .inr ⟨hdf, hcfg⟩
  asm := hgrow .asm nofun nofun nofun
  tx := (hgrow .txbuf nofun nofun nofun).lengthWithin htx
  can := (hgrow .canbuf nofun nofun nofun).lengthWithin hcan
  rx := (hgrow .rxbuf nofun nofun nofun).lengthWithin hrx
  raw := hraw.trans

theorem WriteFrame.of_mem (hmem : t.mem = s.mem) (hdf : t.df = s.df) (hcfg : t.regs.frameCfg = s.regs.frameCfg)
    (htx : t.tx.txLen = s.tx.txLen) (hcan : t.pal.canLen = s.pal.canLen) (hrx : t.hold.rxLen = s.hold.rxLen)
    (hraw : t.urx.rawFifo.length ≤ s.urx.rawFifo.length) : WriteFrame s t :=
  .of_grows (fun b _ _ _ => storeGrows_of_eq (by cases b <;> simp only [State.store, hmem])) hdf hcfg htx hcan hrx hraw

theorem WriteFrame.flag (e : Err) (s : State) : WriteFrame s (flagErr e s) := .of_mem rfl rfl rfl rfl rfl rfl le_rfl

/-- Bytes appended to TXBUF within its size, and TXLEN past them. -/
theorem WriteFrame.of_txbuf {bs : List Byte} {u : Transmitter} (hlen : u.txLen = s.tx.txLen + bs.length)
    (hmax : u.txLen ≤ Config.bufSize) : WriteFrame s { s.putBytes .txbuf s.tx.txLen bs with tx := u } where
  deframer := .inr ⟨rfl, rfl⟩
  asm := storeGrows_putBytes s .txbuf .asm s.tx.txLen bs
  tx := fun hs => ⟨hmax, hlen ▸ filled_putBytes hs.2 bs⟩
  can := (storeGrows_putBytes s .txbuf .canbuf s.tx.txLen bs).lengthWithin rfl
  rx := (storeGrows_putBytes s .txbuf .rxbuf s.tx.txLen bs).lengthWithin rfl
  raw := id

theorem PalFrame.writeFrame (h : PalFrame s t) : WriteFrame s t := by
  obtain ⟨m, hm⟩ := h.err
  exact .of_grows (fun b h1 h2 h3 => storeGrows_of_eq (h.store b h1 h2 h3)) h.df (by rw [hm]) (by rw [h.tx]) h.canLen
    (by rw [h.hold]) (by rw [h.urx])

theorem exec_command_writeFrame {i : Instr} (hi : (encodeCmd i).isSome = true) (hs : i ≠ .srst)
    (h : exec i s = .next t) : WriteFrame s t := by
  cases i <;> simp only [encodeCmd, Option.isSome_none, Bool.false_eq_true, ne_eq, not_true] at hi hs <;>
    simp only [exec] at h
  case nop | s8Clr | s8Add | c32Init | c32Add | rxbRel =>
    exact next_inj h ▸ .of_mem rfl rfl rfl rfl rfl rfl le_rfl
  case txbClr =>
    rcases execTxbClr_cases s with ⟨-, hc⟩ | ⟨-, hc⟩ <;> obtain rfl := next_inj (hc.symm.trans h)
    · exact .flag _ s
    · exact ⟨.inr ⟨rfl, rfl⟩, fun _ => id, fun _ => lengthWithin_zero _ _ _, id, id, id⟩
  case canbClr =>
    exact next_inj h ▸ ⟨.inr ⟨rfl, rfl⟩, fun _ => id, id, fun _ => lengthWithin_zero _ _ _, id, id⟩
  case txFrame =>
    rcases execTxFrame_cases s with ⟨_, -, hc⟩ | ⟨-, -, -, -, hc⟩ <;> obtain rfl := next_inj (hc.symm.trans h) <;>
      exact .of_mem rfl rfl rfl rfl rfl rfl le_rfl
  case txRaw =>
    rcases execTxRaw_cases s with ⟨_, -, hc⟩ | ⟨-, -, -, -, hc⟩ | ⟨-, -, -, -, hc⟩ <;>
      obtain rfl := next_inj (hc.symm.trans h) <;> exact .of_mem rfl rfl rfl rfl rfl rfl le_rfl
  case ucBuild =>
    rcases execUcBuild_cases s with ⟨_, -, hc⟩ | ⟨-, hlen, hc⟩ <;> obtain rfl := next_inj (hc.symm.trans h)
    · exact .flag _ s
    · refine .of_txbuf ?_ (by decide : 8 ≤ Config.bufSize)
      simp only [List.length_cons, List.length_replicate]
      omega
  case ucCheck l =>
    rcases execUcCheck_cases l s with ⟨-, hc⟩ | ⟨-, hc⟩ <;> obtain rfl := next_inj (hc.symm.trans h) <;>
      exact .of_mem rfl rfl rfl rfl rfl rfl le_rfl
  case palTx =>
    rcases execPalTx_cases s with ⟨-, hc⟩ | ⟨-, buf, -, hc⟩ <;> obtain rfl := next_inj (hc.symm.trans h)
    · exact .flag _ s
    · exact .of_grows (fun b _ _ _ => storeGrows_putBytes s .segbuf b 0 (segSlots buf)) rfl rfl rfl rfl rfl le_rfl
  case palSeg => exact (execPalSeg_frame h).writeFrame
  case palAbort => exact (execPalAbort_frame h).writeFrame

theorem execBusRead_writeFrame {a : Addr} (h : execBusRead a s = .next t) : WriteFrame s t := by
  obtain ⟨hdf, hhold, -, hpal, hmem, -, ⟨f, v, hf, hurx⟩, ⟨w, htx⟩, m, hm⟩ := execBusRead_frame h
  have hraw : f.length ≤ s.urx.rawFifo.length := by
    rcases hf with rfl | rfl
    · exact le_rfl
    · simp
  exact .of_mem hmem hdf (by rw [hm]) (by rw [htx]) (by rw [hpal]) (by rw [hhold]) (by rw [hurx]; exact hraw)

theorem writeCtrl_writeFrame (v : Word) (s : State) : WriteFrame s (writeCtrl v s) := by
  rw [writeCtrl_eq]
  refine ⟨?_, fun _ => id, id, id, id, ?_⟩ <;> dsimp only <;> split
  · exact .inl rfl
  · exact .inr ⟨rfl, rfl⟩
  · exact id
  · exact id

theorem writeReg_writeFrame {r : Reg} {v : Word} (hr : r ≠ .cmd) (hs : lengthsWritten s)
    (h : writeReg r v s = .next t) : WriteFrame s t := by
  obtain ⟨⟨htx, -⟩, ⟨hcan, -⟩, -, -⟩ := (lengthsWritten_iff s).mp hs
  rcases writeReg_cases v s hr with ⟨e, -, hc⟩ | ⟨-, hc⟩ | ⟨-, hc⟩ | ⟨-, hc⟩ | ⟨-, hc⟩ | ⟨-, -, hc⟩ | ⟨-, hc⟩ |
    ⟨-, -, hc⟩ | ⟨-, hc⟩ | ⟨-, hc⟩ | ⟨-, -, hc⟩ | ⟨-, -, hfree, hc⟩ | ⟨-, hfree, hc⟩ | hc <;>
    obtain rfl := next_inj (hc.symm.trans h)
  -- CANDATA and TXDATA push a byte; FRAMECFG and CTRL can put the deframer in HUNT.
  on_goal 13 =>
    refine ⟨.inr ⟨rfl, rfl⟩, storeGrows_putBytes s .canbuf .asm _ _, ?_, fun ⟨_, hfill⟩ => ⟨?_, ?_⟩, ?_, id⟩
    · exact (storeGrows_putBytes s .canbuf .txbuf _ _).lengthWithin rfl
    · exact lt_of_le_of_ne hcan hfree
    · exact filled_putBytes hfill [_]
    · exact (storeGrows_putBytes s .canbuf .rxbuf _ _).lengthWithin rfl
  on_goal 12 => exact .of_txbuf rfl (lt_of_le_of_ne htx hfree)
  on_goal 6 => exact ⟨.inl rfl, fun _ => id, id, id, id, id⟩
  on_goal 2 => exact writeCtrl_writeFrame v s
  all_goals exact .of_mem rfl rfl rfl rfl rfl rfl le_rfl

theorem pushRaw_writeFrame (b : Byte) (s : State) : WriteFrame s (pushRaw b s) := by
  unfold pushRaw
  split
  · rename_i hlt
    exact ⟨.inr ⟨rfl, rfl⟩, fun _ => id, id, id, id, fun _ => by simpa using hlt⟩
  · exact .flag _ s

theorem buffersWritten_samplerTick (r : Bool) (hs : buffersWritten s) : buffersWritten (samplerTick r s) := by
  refine samplerTick_keeps (P := buffersWritten) (fun s u hu => ?hurx) (fun e s => (WriteFrame.flag e s).buffersWritten)
    (fun b s => (pushRaw_writeFrame b s).buffersWritten)
    (fun b s ⟨hd, hl⟩ => ⟨deframerInField_deframe b hd, lengthsWritten_deframe b hd hl⟩) (fun e s => ?hdrop) r hs
  case hurx =>
    refine WriteFrame.buffersWritten ?_
    exact .of_mem rfl rfl rfl rfl rfl rfl (congrArg List.length hu).le
  case hdrop => exact fun ⟨_, hl⟩ => ⟨deframerInField_of_hunt rfl, hl⟩

/-- Both resets put the deframer in HUNT and clear every length. -/
theorem buffersWritten_of_reset (hdf : t.df = State.reset.df) (htx : t.tx = State.reset.tx)
    (hpal : t.pal = State.reset.pal) (hhold : t.hold = State.reset.hold) (hurx : t.urx = State.reset.urx) :
    buffersWritten t := by
  refine ⟨deframerInField_of_hunt (by rw [hdf]; rfl), (lengthsWritten_iff t).mpr ?_⟩
  rw [htx, hpal, hhold, hurx]
  exact ⟨lengthWithin_zero t _ _, lengthWithin_zero t _ _, lengthWithin_zero t _ _, Nat.zero_le _⟩

end

end Sys2Proof.Machine

namespace Sys2Proof.Proofs
open Sys2Proof.Machine

/-- Settles O58: the host pushes a byte before it counts it, the deframer stores a payload byte before it counts it and
publishes only what it has stored, and both resets clear every length. -/
theorem stepKeepsBuffersWritten : Obligations.StepKeepsBuffersWritten := by
  intro s t hd hl h
  refine step_keeps (P := buffersWritten) (fun s => WriteFrame.buffersWritten ?hpop) (fun i s t hi hs h => ?hcmd)
    (fun a s t hs h => (execBusRead_writeFrame h).buffersWritten hs)
    (fun r v s t hr hs h => (writeReg_writeFrame hr hs.2 h).buffersWritten hs)
    (fun e s => (WriteFrame.flag e s).buffersWritten) (fun s => WriteFrame.buffersWritten ?hser)
    (fun r s hs => buffersWritten_samplerTick r hs) (fun r s => WriteFrame.buffersWritten ?hclk)
    (fun s _ => buffersWritten_of_reset rfl rfl rfl rfl rfl) ⟨hd, hl⟩ h
  case hpop => apply WriteFrame.of_mem <;> simp
  case hcmd =>
    by_cases hi' : i = .srst
    · subst hi'
      exact next_inj h ▸ buffersWritten_of_reset rfl rfl rfl rfl rfl
    · exact (exec_command_writeFrame hi hi' h).buffersWritten hs
  case hser => exact .of_mem rfl rfl rfl (serializerTick_txLen_txq s.tx).1 rfl rfl le_rfl
  case hclk => apply WriteFrame.of_mem <;> simp

end Sys2Proof.Proofs
end

section
/-! PROOFS. The reassembler (43_ucan_pallet.md R250 to R259): the header of a segment, the set of keys, what buffering a
segment leaves under each key, and the commands PAL_SEG and PAL_ABORT. -/

namespace Sys2Proof.Machine

/-! ## The header and the keys -/

theorem getLsbD_seven_iff (h : Byte) : h.getLsbD 7 = true ↔ 128 ≤ h.toNat := by
  rw [← BitVec.testBit_toNat, Nat.testBit_eq_decide_div_mod_eq, decide_eq_true_iff]
  have := h.isLt
  omega

theorem toNat_extractLsb'_seven (h : Byte) : (h.extractLsb' 0 7).toNat = h.toNat % 128 := by
  simp [BitVec.extractLsb'_toNat]

/-- Setting one bit of a key set adds that key (43_ucan_pallet.md R250). -/
theorem getLsbD_or_one_shiftLeft (x : BitVec 128) {k : Nat} (hk : k < 128) (j : Nat) :
    (x ||| ((1 : BitVec 128) <<< k)).getLsbD j = true ↔ x.getLsbD j = true ∨ j = k := by
  have hbit : (1 : BitVec 128) <<< k = BitVec.twoPow 128 k := rfl
  rw [BitVec.getLsbD_or, Bool.or_eq_true, hbit, BitVec.getLsbD_twoPow]
  simp only [hk, decide_true, Bool.true_and, decide_eq_true_iff, eq_comm (a := j)]

/-- The key set is 0 to n - 1 exactly when those are the bits that are set (43_ucan_pallet.md R253). -/
theorem toNat_eq_two_pow_sub_one_iff (x : BitVec 128) (n : Nat) :
    x.toNat = 2 ^ n - 1 ↔ ∀ j, x.getLsbD j = true ↔ j < n := by
  refine ⟨fun h j => ?_, fun h => Nat.eq_of_testBit_eq fun j => ?_⟩
  · rw [← BitVec.testBit_toNat, h, Nat.testBit_two_pow_sub_one, decide_eq_true_iff]
  · rw [BitVec.testBit_toNat, Nat.testBit_two_pow_sub_one, Bool.eq_iff_iff, h j, decide_eq_true_iff]

theorem palAll_iff (s : State) : s.palAll = true ↔ s.pal.palN ≠ 0 ∧ s.pal.keys.toNat = 2 ^ s.pal.palN - 1 := by
  simp [State.palAll]

/-! ## A segment buffered -/

section
variable {s : State}

theorem length_segData (s : State) (k : Nat) : (s.segData k).length = (s.byte .segl k).toNat := bytes_length _ _ _ _

theorem bytes_congr_lt {t : State} {b : Buffer} {i n : Nat}
    (h : ∀ j, i ≤ j → j < i + n → t.byte b j = s.byte b j) : t.bytes b i n = s.bytes b i n :=
  List.map_congr_left fun j hj => h (i + j) (by omega) (by have := List.mem_range.mp hj; omega)

/-- Buffering a segment writes only SEGD and SEGL. -/
theorem palBuffer_byte_other (k : Nat) (s : State) {b : Buffer} (hd : b ≠ .segd) (hl : b ≠ .segl) (j : Nat) :
    (palBuffer k s).byte b j = s.byte b j :=
  byte_congr (by rw [palBuffer_store, if_neg hd, if_neg hl]) (by rw [(palBuffer_frame k s).env]) j

theorem palBuffer_byte_segl (k : Nat) (s : State) (j : Nat) :
    (palBuffer k s).byte .segl j = if j = k then BitVec.ofNat 8 (s.pal.canLen - 1) else s.byte .segl j := by
  unfold State.byte
  rw [palBuffer_store, if_neg nofun, if_pos rfl, Memory.get_put]
  split <;> rfl

theorem palBuffer_byte_segd (k : Nat) (s : State) (j : Nat) :
    (palBuffer k s).byte .segd j =
      (s.putBytes .segd (8 * k) (s.bytes .canbuf 1 (s.pal.canLen - 1))).byte .segd j :=
  byte_congr (by rw [palBuffer_store, if_pos rfl]; rfl) (by rw [(palBuffer_frame k s).env]; rfl) j

/-- The segment of the buffered key is CANBUF's, in place of what was there (43_ucan_pallet.md R259). -/
theorem palBuffer_segData_same (k : Nat) (hcan : s.pal.canLen ≤ 8) :
    (palBuffer k s).segData k = s.bytes .canbuf 1 (s.pal.canLen - 1) := by
  have hlen : ((palBuffer k s).byte .segl k).toNat = (s.bytes .canbuf 1 (s.pal.canLen - 1)).length := by
    rw [palBuffer_byte_segl, if_pos rfl, bytes_length, BitVec.toNat_ofNat]; omega
  rw [State.segData, bytes_congr (palBuffer_byte_segd k s), hlen, putBytes_bytes_same]

/-- The segments of the other keys are as they were: a slot of SEGD holds 8 bytes and a segment at most 7. -/
theorem palBuffer_segData_other {k j : Nat} (hcan : s.pal.canLen ≤ 8) (hj : j ≠ k)
    (hlen : (s.byte .segl j).toNat ≤ 7) : (palBuffer k s).segData j = s.segData j := by
  rw [State.segData, State.segData, palBuffer_byte_segl, if_neg hj, bytes_congr (palBuffer_byte_segd k s)]
  refine bytes_congr_lt fun i hlo hhi => ?_
  rw [putBytes_byte, if_neg]
  rw [bytes_length]
  omega

/-! ## PAL_SEG and PAL_ABORT -/

/-- PAL_N latched (43_ucan_pallet.md R251). -/
def latchPalN (n : Nat) (s : State) : State := { s with pal := { s.pal with palN := n } }

/-- A segment that does not conflict with PAL_N is taken, with PAL_N latched from a first-flagged one. -/
theorem execPalSeg_of_agrees (k n : Nat) (hcan : 1 ≤ s.pal.canLen) (hk : k = (s.byte .canbuf 0).toNat % 128)
    (hn : n = if 128 ≤ (s.byte .canbuf 0).toNat then k + 1 else s.pal.palN)
    (hok : 128 ≤ (s.byte .canbuf 0).toNat → s.pal.palN = 0 ∨ s.pal.palN = k + 1) :
    execPalSeg s = .next (palTake k (latchPalN n s)) := by
  rw [← getLsbD_seven_iff] at hok
  simp only [← getLsbD_seven_iff] at hn
  rcases execPalSeg_cases s with ⟨h0, -⟩ | ⟨k', -, hk', hc⟩
  · omega
  rw [toNat_extractLsb'_seven, ← hk] at hk'
  subst hk'
  rcases hc with ⟨-, hf, hc⟩ | ⟨h0, hne, hf, -⟩ | ⟨hf, hc⟩
  · rw [hc, hn, if_pos hf]; rfl
  · exact absurd (hok hf) (not_or.mpr ⟨h0, hne⟩)
  · have hkeep : n = s.pal.palN := by
      rw [hn]
      split
      · exact (hf ‹_›).symm
      · rfl
    rw [hc, hkeep]
    rfl

/-- A first-flagged segment with another count than PAL_N ends the reassembly (43_ucan_pallet.md R251). -/
theorem execPalSeg_of_conflicts (hcan : 1 ≤ s.pal.canLen) (hf : 128 ≤ (s.byte .canbuf 0).toNat)
    (hn : s.pal.palN ≠ 0) (hne : s.pal.palN ≠ (s.byte .canbuf 0).toNat % 128 + 1) :
    execPalSeg s = .next (palFail .palhdr s) := by
  rcases execPalSeg_cases s with ⟨h0, -⟩ | ⟨k, -, hk, hc⟩
  · omega
  rw [← toNat_extractLsb'_seven, ← hk] at hne
  rcases hc with ⟨h0, -⟩ | ⟨-, -, -, hc⟩ | ⟨hs, -⟩
  · exact absurd h0 hn
  · exact hc
  · exact absurd (hs ((getLsbD_seven_iff _).mpr hf)) hne

/-- The reassembly is complete with a segment when KEYS with its key is 0 to n - 1, PAL_N latched at n. -/
theorem palAll_palBuffer_latchPalN_iff (k n : Nat) (s : State) : (palBuffer k (latchPalN n s)).palAll = true ↔
    n ≠ 0 ∧ (s.pal.keys ||| ((1 : BitVec 128) <<< k)).toNat = 2 ^ n - 1 :=
  palAll_iff _

theorem palTake_of_incomplete {k : Nat} (h : (palBuffer k s).palAll ≠ true) : palTake k s = palBuffer k s := by
  rcases palTake_cases k s with ⟨ht, -⟩ | ⟨-, hc⟩
  · exact absurd ht h
  · exact hc

theorem palTake_of_complete {k : Nat} (h : (palBuffer k s).palAll = true) :
    palTake k s = palComplete (palBuffer k s) := by
  rcases palTake_cases k s with ⟨-, hc⟩ | ⟨hf, -⟩
  · exact hc
  · exact absurd h (by simp [hf])

/-! ## COMPLETE -/

/-- The buffer put together from the stored segments and the one in CANBUF (43_ucan_pallet.md R254). -/
theorem reassembled_palBuffer_latchPalN {k n : Nat} (hcan : s.pal.canLen ≤ 8)
    (hlen : ∀ j, j < n → j ≠ k → (s.byte .segl j).toNat ≤ 7) :
    (palBuffer k (latchPalN n s)).reassembled = (List.range n).reverse.flatMap
      (fun j => if j = k then s.bytes .canbuf 1 (s.pal.canLen - 1) else s.segData j) := by
  refine List.flatMap_congr fun j hj => ?_
  have hjn : j < n := List.mem_range.mp (List.mem_reverse.mp hj)
  split
  · subst j
    exact palBuffer_segData_same k hcan
  · exact palBuffer_segData_other hcan ‹_› (hlen j hjn ‹_›)

/-- Either way the reassembler is empty and its result is there (43_ucan_pallet.md R255). -/
theorem palComplete_empties (s : State) :
    (palComplete s).pal.palDone = true ∧ (palComplete s).pal.keys = 0 ∧ (palComplete s).pal.palN = 0 := by
  rcases palComplete_cases s with ⟨-, -, h⟩ | ⟨-, h⟩ <;> rw [h] <;> exact ⟨rfl, rfl, rfl⟩

/-- A good buffer is published without its last four bytes (43_ucan_pallet.md R255). -/
theorem palComplete_of_good (h : 4 ≤ s.reassembled.length ∧ crc32 s.regs.c32init s.reassembled = 0) :
    (palComplete s).pal.palOk = true ∧ (palComplete s).pal.palLen = s.reassembled.length - 4
      ∧ (palComplete s).regs = s.regs
      ∧ (palComplete s).bytes .palbuf 0 (s.reassembled.length - 4) = s.reassembled.take (s.reassembled.length - 4)
      ∧ ∀ j, s.reassembled.length - 4 ≤ j → (palComplete s).byte .palbuf j = s.byte .palbuf j := by
  rcases palComplete_cases s with ⟨-, -, hc⟩ | ⟨hbad, -⟩
  · have hbyte (j : Nat) : (palComplete s).byte .palbuf j =
        (s.putBytes .palbuf 0 (s.reassembled.take (s.reassembled.length - 4))).byte .palbuf j := by
      rw [hc]; exact byte_congr_mem rfl rfl rfl _ j
    have hlen : (s.reassembled.take (s.reassembled.length - 4)).length = s.reassembled.length - 4 := by simp
    refine ⟨by rw [hc]; rfl, by rw [hc]; rfl, by rw [hc]; rfl, ?_, fun j hj => ?_⟩
    · have hsame := putBytes_bytes_same s .palbuf 0 (s.reassembled.take (s.reassembled.length - 4))
      rwa [hlen, ← bytes_congr hbyte] at hsame
    · rw [hbyte, putBytes_byte, if_neg (by omega)]
  · exact absurd h hbad

theorem palComplete_of_bad (h : ¬ (4 ≤ s.reassembled.length ∧ crc32 s.regs.c32init s.reassembled = 0)) :
    palComplete s = palFail .palcrc s :=
  if_neg h

end

end Sys2Proof.Machine

namespace Sys2Proof.Proofs
open Sys2Proof.Machine

/-- Settles O33: the conflict and the abort of a reassembly are FAIL, whose one next state is the statement's. -/
theorem reassemblyFailsOnConflictOrAbort : Obligations.ReassemblyFailsOnConflictOrAbort := by
  exact fun s => ⟨execPalSeg_of_conflicts, badopUnless_of_no_argument (by decide) (by decide) (by decide) s,
    fun h => if_neg h, fun h => if_pos h⟩

/-- Settles O31: the segment is taken, and the key set it leaves is not the whole one. -/
theorem palSegBuffersSegment : Obligations.PalSegBuffersSegment := by
  intro s k n hcan hcan8 hk hn hok hpart
  have hexec := execPalSeg_of_agrees k n hcan hk hn hok
  rw [palTake_of_incomplete (mt (palAll_palBuffer_latchPalN_iff k n s).mp hpart)] at hexec
  exact ⟨_, hexec, rfl, palBuffer_segData_same k hcan8, fun j hj hlen => palBuffer_segData_other hcan8 hj hlen,
    fun b j hd hl => palBuffer_byte_other k _ hd hl j, rfl, rfl, rfl, rfl, rfl, rfl, rfl⟩

/-- Settles O32: COMPLETE on the segments as buffered, the last one's among them. -/
theorem palSegCompletesReassembly : Obligations.PalSegCompletesReassembly := by
  intro s k n buf hcan hcan8 hk hn hok hn0 hkeys hlen hbuf
  have hexec := execPalSeg_of_agrees k n hcan hk hn hok
  rw [palTake_of_complete ((palAll_palBuffer_latchPalN_iff k n s).mpr ⟨hn0, hkeys⟩)] at hexec
  have hf := execPalSeg_frame hexec
  have hre : (palBuffer k (latchPalN n s)).reassembled = buf := by
    rw [hbuf]
    exact reassembled_palBuffer_latchPalN hcan8 hlen
  have hpalbuf (j : Nat) : (palBuffer k (latchPalN n s)).byte .palbuf j = s.byte .palbuf j :=
    palBuffer_byte_other (b := .palbuf) k _ nofun nofun j
  obtain ⟨hdone, hkeys0, hn0'⟩ := palComplete_empties (palBuffer k (latchPalN n s))
  refine ⟨_, hexec, hdone, hkeys0, hn0', hf.canLen, hf.segN, hf.segLastLen, ?_,
    fun b j hd hl hp => byte_congr (hf.store b hp hd hl) (by rw [hf.env]) j,
    hf.tx, hf.df, hf.hold, hf.urx, hf.tick, hf.env⟩
  subst hre
  split
  · rename_i hgood
    obtain ⟨hok', hlen', hregs, hbytes, hrest⟩ := palComplete_of_good hgood
    exact ⟨hok', hlen', hregs, hbytes, fun j hj => (hrest j hj).trans (hpalbuf j)⟩
  · rename_i hbad
    rw [palComplete_of_bad hbad]
    exact ⟨rfl, rfl, rfl, hpalbuf⟩

end Sys2Proof.Proofs
end

section
/-! PROOFS. The segments of a pallet (43_ucan_pallet.md R245 to R248), and that the reassembler puts them together in
whatever order they come (R258). -/

namespace Sys2Proof.Machine

/-! ## The segments -/

/-- The header of a segment as a number: is_first in bit 7, segments_remaining below it (43_ucan_pallet.md R246). -/
theorem toNat_segHeader {n i : Nat} (hn : n ≤ 128) (hi : i < n) :
    (segHeader n i).toNat = (if i = 0 then 128 else 0) + (n - 1 - i) := by
  have hrem : (BitVec.ofNat 8 (n - 1 - i)).toNat = n - 1 - i := by
    rw [BitVec.toNat_ofNat]; omega
  rw [segHeader, BitVec.toNat_or, hrem]
  split
  · exact (Nat.two_pow_add_eq_or_of_lt (i := 7) (by omega) 1).symm
  · simp

theorem length_palletBuffer (init : Word) (d : List Byte) : (palletBuffer init d).length = d.length + 4 := by
  simp [palletBuffer, le32]

/-- A pallet of at most 892 data bytes has 1 to 128 segments (43_ucan_pallet.md R245). -/
theorem segCount_bounds {t : Nat} (hlo : 4 ≤ t) (hhi : t ≤ 896) : 1 ≤ segCount t ∧ segCount t ≤ 128 := by
  unfold segCount; omega

theorem length_segChunk_le (buf : List Byte) (i : Nat) : (segChunk buf i).length ≤ 7 := List.length_take_le _ _

/-- The chunks in slot order are the buffer (43_ucan_pallet.md R248). -/
theorem flatMap_segChunk (buf : List Byte) : (List.range (segCount buf.length)).flatMap (segChunk buf) = buf := by
  have htake (n : Nat) : (List.range n).flatMap (segChunk buf) = buf.take (7 * n) := by
    induction n with
    | zero => rfl
    | succ n ih =>
      rw [List.range_succ, List.flatMap_append, ih, List.flatMap_singleton, Nat.mul_succ, List.take_add, segChunk]
  rw [htake, List.take_of_length_le (by unfold segCount; omega)]

/-- The chunks by key, from the highest key down, are the buffer (43_ucan_pallet.md R254). -/
theorem flatMap_segChunk_by_key (buf : List Byte) : (List.range (segCount buf.length)).reverse.flatMap
    (fun j => segChunk buf (segCount buf.length - 1 - j)) = buf := by
  conv_rhs => rw [← flatMap_segChunk buf]
  rw [List.range_eq_range', List.reverse_range', List.flatMap_map, List.range_eq_range']
  refine List.flatMap_congr fun j hj => congrArg (segChunk buf) ?_
  have := List.mem_range'_1.mp hj
  omega

/-! ## A segment in CANBUF -/

section
variable {s t : State}

theorem withSegment_byte_other (seg : List Byte) (s : State) {b : Buffer} (h : b ≠ .canbuf) (j : Nat) :
    (withSegment seg s).byte b j = s.byte b j :=
  putBytes_byte_other s h 0 j seg

theorem withSegment_segData (seg : List Byte) (s : State) (k : Nat) : (withSegment seg s).segData k = s.segData k := by
  rw [State.segData, withSegment_byte_other (b := .segl) seg s nofun,
    bytes_congr (withSegment_byte_other (b := .segd) seg s nofun)]
  rfl

theorem withSegment_byte_header (h : Byte) (c : List Byte) (s : State) :
    (withSegment (h :: c) s).byte .canbuf 0 = h := by
  show (s.putBytes .canbuf 0 (h :: c)).byte .canbuf 0 = h
  rw [putBytes_byte, if_pos ⟨rfl, le_rfl, by simp⟩]
  rfl

theorem withSegment_bytes_data (h : Byte) (c : List Byte) (s : State) :
    (withSegment (h :: c) s).bytes .canbuf 1 ((withSegment (h :: c) s).pal.canLen - 1) = c := by
  show (s.putBytes .canbuf 0 (h :: c)).bytes .canbuf 1 c.length = c
  rw [putBytes_cons]
  exact putBytes_bytes_same _ .canbuf 1 c

theorem giveSegment_of_next {seg : List Byte} (h : exec .palSeg (withSegment seg s) = .next t) :
    giveSegment s seg = t := by
  rw [giveSegment, h]

end

/-! ## The reassembler part of the way -/

/-- The reassembler holds the segments of `l` of a pallet buffer and no others: segment i under key N - 1 - i, with
PAL_N latched from segment 0 (43_ucan_pallet.md R246, R250, R251). -/
structure Gathered (buf : List Byte) (l : List Nat) (t : State) : Prop where
  keys : ∀ j, t.pal.keys.getLsbD j = true ↔ j < segCount buf.length ∧ segCount buf.length - 1 - j ∈ l
  palN : t.pal.palN = if 0 ∈ l then segCount buf.length else 0
  data : ∀ j, t.pal.keys.getLsbD j = true → t.segData j = segChunk buf (segCount buf.length - 1 - j)

section
variable {buf : List Byte} {l : List Nat} {t : State}

theorem gathered_nil (buf : List Byte) (hk : t.pal.keys = 0) (hn : t.pal.palN = 0) : Gathered buf [] t where
  keys := by simp [hk]
  palN := by simp [hn]
  data := by simp [hk]

theorem Gathered.length_le (h : Gathered buf l t) {j : Nat} (hj : t.pal.keys.getLsbD j = true) :
    (t.byte .segl j).toNat ≤ 7 := by
  rw [← length_segData, h.data j hj]
  exact length_segChunk_le buf _

/-- A pallet's segment agrees with the ones gathered before it: what PAL_SEG asks of it, and the PAL_N it leaves. -/
theorem Gathered.agrees (h : Gathered buf l t) (hN : segCount buf.length ≤ 128) {i : Nat}
    (hi : i < segCount buf.length) :
    let s := withSegment (segmentOf buf i) t
    let k := segCount buf.length - 1 - i
    1 ≤ s.pal.canLen ∧ s.pal.canLen ≤ 8 ∧ k = (s.byte .canbuf 0).toNat % 128
      ∧ (if 0 ∈ l ++ [i] then segCount buf.length else 0) =
          (if 128 ≤ (s.byte .canbuf 0).toNat then k + 1 else s.pal.palN)
      ∧ (128 ≤ (s.byte .canbuf 0).toNat → s.pal.palN = 0 ∨ s.pal.palN = k + 1) := by
  intro s k
  have hlen : s.pal.canLen = (segChunk buf i).length + 1 := rfl
  have hchunk := length_segChunk_le buf i
  have hpalN : s.pal.palN = if 0 ∈ l then segCount buf.length else 0 := h.palN
  have hh : (s.byte .canbuf 0).toNat = (if i = 0 then 128 else 0) + (segCount buf.length - 1 - i) := by
    rw [← toNat_segHeader hN hi]
    exact congrArg _ (withSegment_byte_header _ _ t)
  have hfirst : 128 ≤ (s.byte .canbuf 0).toNat ↔ i = 0 := by rw [hh]; split <;> omega
  rw [hpalN]
  simp only [hfirst, List.mem_append, List.mem_singleton]
  refine ⟨by omega, by omega, ?_, ?_, fun hi0 => ?_⟩
  · rw [hh]; split <;> omega
  · by_cases hi0 : i = 0
    · rw [if_pos (.inr hi0.symm), if_pos hi0]
      omega
    · simp [hi0, Ne.symm hi0]
  · split <;> omega

/-- The keys with segment i's key are those of `l` with i. -/
theorem Gathered.keys_append (h : Gathered buf l t) (hN : segCount buf.length ≤ 128) {i : Nat}
    (hi : i < segCount buf.length) (j : Nat) :
    (t.pal.keys ||| ((1 : BitVec 128) <<< (segCount buf.length - 1 - i))).getLsbD j = true ↔
      j < segCount buf.length ∧ segCount buf.length - 1 - j ∈ l ++ [i] := by
  rw [getLsbD_or_one_shiftLeft _ (by omega), h.keys, List.mem_append, List.mem_singleton, and_or_left]
  exact or_congr_right (by omega)

end

end Sys2Proof.Machine

namespace Sys2Proof.Proofs
open Sys2Proof.Machine

section
variable {buf : List Byte} {l : List Nat} {t : State}

/-- A segment of a pallet, some other segment still missing, joins the ones gathered. -/
theorem gathered_giveSegment (h : Gathered buf l t) (hN : segCount buf.length ≤ 128) {i last : Nat}
    (hi : i < segCount buf.length) (hlast : last < segCount buf.length) (hmiss : last ∉ l ++ [i]) :
    Gathered buf (l ++ [i]) (giveSegment t (segmentOf buf i)) ∧ (giveSegment t (segmentOf buf i)).regs = t.regs := by
  obtain ⟨hcan, hcan8, hk, hn, hok⟩ := h.agrees hN hi
  have hpart : ¬ ((if 0 ∈ l ++ [i] then segCount buf.length else 0) ≠ 0 ∧
      (t.pal.keys ||| ((1 : BitVec 128) <<< (segCount buf.length - 1 - i))).toNat =
        2 ^ (if 0 ∈ l ++ [i] then segCount buf.length else 0) - 1) := by
    rintro ⟨h0, hall⟩
    rw [if_pos (by_contra fun hno => h0 (if_neg hno)), toNat_eq_two_pow_sub_one_iff] at hall
    have hin := (h.keys_append hN hi (segCount buf.length - 1 - last)).mp ((hall _).mpr (by omega))
    rw [show segCount buf.length - 1 - (segCount buf.length - 1 - last) = last by omega] at hin
    exact hmiss hin.2
  obtain ⟨u, hu, hpal, hnew, hold, -, hregs, -⟩ := palSegBuffersSegment _ _ _ hcan hcan8 hk hn hok hpart
  rw [giveSegment_of_next hu]
  have hkeys : u.pal.keys = t.pal.keys ||| ((1 : BitVec 128) <<< (segCount buf.length - 1 - i)) := by rw [hpal]; rfl
  refine ⟨⟨fun j => ?_, by rw [hpal], fun j hj => ?_⟩, hregs⟩
  · rw [hkeys]; exact h.keys_append hN hi j
  · by_cases hjk : j = segCount buf.length - 1 - i
    · rw [hjk, hnew, segmentOf, withSegment_bytes_data]
      congr 1; omega
    · rw [hkeys, getLsbD_or_one_shiftLeft _ (by omega)] at hj
      have hj := hj.resolve_right hjk
      rw [hold j hjk (by rw [withSegment_byte_other (b := .segl) _ _ nofun]; exact h.length_le hj), withSegment_segData]
      exact h.data j hj

/-- Segments of a pallet given one after another, one of its segments not among them. -/
theorem gathered_foldl {s : State} (hk : s.pal.keys = 0) (hn : s.pal.palN = 0) (hN : segCount buf.length ≤ 128)
    {last : Nat} (hlast : last < segCount buf.length) (hl : ∀ i ∈ l, i < segCount buf.length) (hmiss : last ∉ l) :
    Gathered buf l (l.foldl (fun s i => giveSegment s (segmentOf buf i)) s) ∧
      (l.foldl (fun s i => giveSegment s (segmentOf buf i)) s).regs = s.regs := by
  induction l using List.reverseRecOn with
  | nil => exact ⟨gathered_nil buf hk hn, rfl⟩
  | append_singleton l i ih =>
    obtain ⟨hg, hregs⟩ := ih (fun j hj => hl j (List.mem_append_left _ hj))
      (fun hj => hmiss (List.mem_append_left _ hj))
    rw [List.foldl_append]
    obtain ⟨hg', hregs'⟩ := gathered_giveSegment hg hN (hl i (by simp)) hlast hmiss
    exact ⟨hg', hregs'.trans hregs⟩

/-- The last segment of a pallet completes the reassembly with the pallet's buffer. -/
theorem giveSegment_completes (h : Gathered buf l t) (hN : segCount buf.length ≤ 128) {i : Nat}
    (hi : i < segCount buf.length) (hall : ∀ j, j < segCount buf.length → j ∈ l ++ [i]) (hlen : 4 ≤ buf.length)
    (hcrc : crc32 t.regs.c32init buf = 0) :
    let u := giveSegment t (segmentOf buf i)
    u.pal.palDone = true ∧ u.pal.palOk = true ∧ u.pal.palLen = buf.length - 4
      ∧ u.bytes .palbuf 0 (buf.length - 4) = buf.take (buf.length - 4) ∧ u.pal.keys = 0 ∧ u.pal.palN = 0
      ∧ u.regs = t.regs := by
  obtain ⟨hcan, hcan8, hk, hn, hok⟩ := h.agrees hN hi
  rw [if_pos (hall 0 (by omega))] at hn
  have hkeys : (t.pal.keys ||| ((1 : BitVec 128) <<< (segCount buf.length - 1 - i))).toNat =
      2 ^ segCount buf.length - 1 :=
    (toNat_eq_two_pow_sub_one_iff _ _).mpr fun j =>
      (h.keys_append hN hi j).trans ⟨And.left, fun hj => ⟨hj, hall _ (by omega)⟩⟩
  have hheld (j : Nat) (hj : j < segCount buf.length) (hjk : j ≠ segCount buf.length - 1 - i) :
      t.pal.keys.getLsbD j = true := by
    have := (h.keys_append hN hi j).mpr ⟨hj, hall _ (by omega)⟩
    rw [getLsbD_or_one_shiftLeft _ (by omega)] at this
    exact this.resolve_right hjk
  have hbuf : buf = (List.range (segCount buf.length)).reverse.flatMap fun j =>
      if j = segCount buf.length - 1 - i then
        (withSegment (segmentOf buf i) t).bytes .canbuf 1 ((withSegment (segmentOf buf i) t).pal.canLen - 1)
      else (withSegment (segmentOf buf i) t).segData j := by
    conv_lhs => rw [← flatMap_segChunk_by_key buf]
    refine List.flatMap_congr fun j hj => ?_
    split
    · subst j
      rw [segmentOf, withSegment_bytes_data]
      congr 1; omega
    · rw [withSegment_segData, h.data j (hheld j (by simpa using hj) ‹_›)]
  obtain ⟨u, hu, hdone, hkeys0, hn0, -, -, -, hres, -⟩ := palSegCompletesReassembly _ _ _ buf hcan hcan8 hk hn hok
    (by omega) hkeys (fun j hj hjk => by
      rw [withSegment_byte_other (b := .segl) _ _ nofun]; exact h.length_le (hheld j hj hjk)) hbuf
  rw [if_pos ⟨hlen, hcrc⟩] at hres
  obtain ⟨hok', hlen', hregs, hbytes, -⟩ := hres
  rw [giveSegment_of_next hu]
  exact ⟨hdone, hok', hlen', hbytes, hkeys0, hn0, hregs⟩

end

/-- Settles O34: all segments but the last are gathered, in whatever order, and the last completes the set; the buffer
is then the transmitted one, whose residue is 0. -/
theorem palletReassemblesInAnyOrder : Obligations.PalletReassemblesInAnyOrder := by
  intro s d order hk hn hd buf hperm
  have hlen : buf.length = d.length + 4 := length_palletBuffer _ d
  obtain ⟨hpos, hN⟩ := segCount_bounds (t := buf.length) (by omega) (by omega)
  have hmem (i : Nat) : i ∈ order ↔ i < segCount buf.length := by rw [hperm.mem_iff, List.mem_range]
  have hnodup : order.Nodup := hperm.nodup_iff.mpr List.nodup_range
  rcases order.eq_nil_or_concat' with rfl | ⟨l, last, rfl⟩
  · exact absurd ((hmem 0).mpr hpos) List.not_mem_nil
  have hlast : last < segCount buf.length := (hmem last).mp (by simp)
  have hmiss : last ∉ l := fun h => (List.nodup_append.mp hnodup).2.2 last h last (by simp) rfl
  obtain ⟨hg, hregs⟩ := gathered_foldl hk hn hN hlast (fun i hi => (hmem i).mp (List.mem_append_left _ hi)) hmiss
  have hcrc : crc32 s.regs.c32init buf = 0 := crc32ZeroResidue.1 _ d
  obtain ⟨hdone, hok, hlen', hbytes, hk', hn', hregs'⟩ :=
    giveSegment_completes hg hN hlast (fun j hj => (hmem j).mpr hj) (by omega) (by rw [hregs]; exact hcrc)
  rw [hlen, Nat.add_sub_cancel] at hlen' hbytes
  intro t
  have ht : t = giveSegment (l.foldl (fun s i => giveSegment s (segmentOf buf i)) s) (segmentOf buf last) :=
    List.foldl_append
  rw [ht]
  exact ⟨hdone, hok, hlen', hbytes.trans List.take_left, hk', hn', hregs'.trans hregs⟩

end Sys2Proof.Proofs
end

section
/-! PROOFS. That every step keeps the reassembler sound (43_ucan_pallet.md R252, R255): only PAL_SEG adds a key, with
its segment stored, and only it latches PAL_N and publishes a length. -/

namespace Sys2Proof.Machine

section
variable {s t : State}

/-! ## The other agents -/

/-- What every agent but the reassembler's own commands keeps: KEYS, PAL_N, PAL_LEN, SEGD, SEGL, and CANLEN in range. -/
structure ReassemblerKept (s t : State) : Prop where
  keys : t.pal.keys = s.pal.keys
  palN : t.pal.palN = s.pal.palN
  palLen : t.pal.palLen = s.pal.palLen
  segd : t.mem.segd = s.mem.segd
  segl : t.mem.segl = s.mem.segl
  canLen : s.pal.canLen ≤ Config.canSize → t.pal.canLen ≤ Config.canSize

theorem ReassemblerKept.of_pal (hpal : t.pal = s.pal) (hd : t.store .segd = s.store .segd)
    (hl : t.store .segl = s.store .segl) : ReassemblerKept s t :=
  ⟨by rw [hpal], by rw [hpal], by rw [hpal], hd, hl, by rw [hpal]; exact id⟩

theorem ReassemblerKept.of_mem (hpal : t.pal = s.pal) (hmem : t.mem = s.mem) : ReassemblerKept s t :=
  .of_pal hpal (congrArg Buffers.segd hmem) (congrArg Buffers.segl hmem)

theorem ReassemblerKept.reassemblerSound (h : ReassemblerKept s t) (hs : reassemblerSound s) : reassemblerSound t := by
  obtain ⟨hseg, hn, hlen, hcan⟩ := hs
  unfold Machine.reassemblerSound segStored
  rw [h.keys, h.palN, h.palLen, h.segd, h.segl]
  exact ⟨hseg, hn, hlen, h.canLen hcan⟩

/-- An empty reassembler with its result and CANLEN in range. -/
theorem reassemblerSound_of_empty (hk : s.pal.keys = 0) (hn : s.pal.palN = 0)
    (hlen : s.pal.palLen ≤ Config.palMaxData) (hcan : s.pal.canLen ≤ Config.canSize) : reassemblerSound s :=
  ⟨fun k h => by simp [hk] at h, fun h => absurd hn h, hlen, hcan⟩

theorem reassemblerSound_of_reset (h : s.pal = State.reset.pal) : reassemblerSound s := by
  apply reassemblerSound_of_empty <;> rw [h] <;> simp [State.reset]

theorem exec_command_reassemblerKept {i : Instr} (hi : (encodeCmd i).isSome = true) (hs : i ≠ .srst)
    (hseg : i ≠ .palSeg) (habort : i ≠ .palAbort) (h : exec i s = .next t) : ReassemblerKept s t := by
  cases i <;> simp only [encodeCmd, Option.isSome_none, Bool.false_eq_true, ne_eq, not_true] at hi hs hseg habort <;>
    simp only [exec] at h
  case nop | s8Clr | s8Add | c32Init | c32Add | rxbRel => exact next_inj h ▸ .of_mem rfl rfl
  case canbClr => exact next_inj h ▸ ⟨rfl, rfl, rfl, rfl, rfl, fun _ => Nat.zero_le _⟩
  case txbClr =>
    rcases execTxbClr_cases s with ⟨-, hc⟩ | ⟨-, hc⟩ <;> exact next_inj (hc.symm.trans h) ▸ .of_mem rfl rfl
  case txFrame =>
    rcases execTxFrame_cases s with ⟨_, -, hc⟩ | ⟨-, -, -, -, hc⟩ <;>
      exact next_inj (hc.symm.trans h) ▸ .of_mem rfl rfl
  case txRaw =>
    rcases execTxRaw_cases s with ⟨_, -, hc⟩ | ⟨-, -, -, -, hc⟩ | ⟨-, -, -, -, hc⟩ <;>
      exact next_inj (hc.symm.trans h) ▸ .of_mem rfl rfl
  case ucBuild =>
    rcases execUcBuild_cases s with ⟨_, -, hc⟩ | ⟨-, -, hc⟩ <;>
      exact next_inj (hc.symm.trans h) ▸ .of_pal rfl rfl rfl
  case ucCheck l =>
    rcases execUcCheck_cases l s with ⟨-, hc⟩ | ⟨-, hc⟩ <;> exact next_inj (hc.symm.trans h) ▸ .of_mem rfl rfl
  case palTx =>
    rcases execPalTx_cases s with ⟨-, hc⟩ | ⟨-, _, -, hc⟩ <;>
      exact next_inj (hc.symm.trans h) ▸ ⟨rfl, rfl, rfl, rfl, rfl, id⟩

theorem writeReg_reassemblerKept {r : Reg} {v : Word} (hr : r ≠ .cmd) (h : writeReg r v s = .next t) :
    ReassemblerKept s t := by
  rcases writeReg_cases v s hr with ⟨e, -, hc⟩ | ⟨-, hc⟩ | ⟨-, hc⟩ | ⟨-, hc⟩ | ⟨-, hc⟩ | ⟨-, -, hc⟩ | ⟨-, hc⟩ |
    ⟨-, -, hc⟩ | ⟨-, hc⟩ | ⟨-, hc⟩ | ⟨-, -, hc⟩ | ⟨-, -, -, hc⟩ | ⟨-, hfree, hc⟩ | hc <;>
    obtain rfl := next_inj (hc.symm.trans h)
  -- CANDATA counts a byte it has room for; STATUS clears PAL_DONE.
  on_goal 13 => exact ⟨rfl, rfl, rfl, rfl, rfl, fun hcan => lt_of_le_of_ne hcan hfree⟩
  on_goal 3 => exact ⟨rfl, rfl, rfl, rfl, rfl, id⟩
  on_goal 2 => rw [writeCtrl_eq]
  all_goals exact .of_pal rfl rfl rfl

/-! ## The reassembler's commands -/

theorem segStored_iff (s : State) (k : Nat) : segStored s.mem k ↔
    ∃ n : Byte, Memory.get (s.store .segl) k = some n ∧ n.toNat ≤ Config.segData
      ∧ ∀ j, j < n.toNat → (Memory.get (s.store .segd) (8 * k + j)).isSome :=
  Iff.rfl

/-- Buffering a segment stores it and loses no byte of the others. -/
theorem segStored_palBuffer {k : Nat} (hcan : s.pal.canLen ≤ Config.canSize) {j : Nat}
    (h : j ≠ k → segStored s.mem j) : segStored (palBuffer k s).mem j := by
  have hsegd (i : Nat) : (Memory.get ((palBuffer k s).store .segd) i).isSome ↔
      (8 * k ≤ i ∧ i < 8 * k + (s.pal.canLen - 1)) ∨ (Memory.get (s.store .segd) i).isSome := by
    have hput := isSome_get_putBytes s .segd .segd (8 * k) i (s.bytes .canbuf 1 (s.pal.canLen - 1))
    rw [bytes_length, eq_self, true_and] at hput
    exact hput
  have hsegl : Memory.get ((palBuffer k s).store .segl) j =
      if j = k then some (BitVec.ofNat 8 (s.pal.canLen - 1)) else Memory.get (s.store .segl) j :=
    Memory.get_put s.mem.segl k j _
  rw [segStored_iff, hsegl]
  by_cases hj : j = k
  · have hlen : (BitVec.ofNat 8 (s.pal.canLen - 1)).toNat = s.pal.canLen - 1 := by
      rw [Config.canSize] at hcan
      rw [BitVec.toNat_ofNat]; omega
    rw [if_pos hj]
    refine ⟨_, rfl, by rw [hlen]; exact Nat.sub_le_sub_right hcan 1, fun i hi => (hsegd _).mpr (.inl ?_)⟩
    omega
  · obtain ⟨n, hn, hle, hd⟩ := (segStored_iff s j).mp (h hj)
    rw [if_neg hj]
    exact ⟨n, hn, hle, fun i hi => (hsegd _).mpr (.inr (hd i hi))⟩

/-- A segment taken with PAL_N latched at its own count, or left. -/
theorem reassemblerSound_palBuffer {k n : Nat} (hk : k < 128) (hs : reassemblerSound s)
    (hn : n = k + 1 ∨ n = s.pal.palN) : reassemblerSound (palBuffer k (latchPalN n s)) := by
  obtain ⟨hseg, hpalN, hlen, hcan⟩ := hs
  refine ⟨fun j hj => segStored_palBuffer hcan fun hjk => ?_, fun h0 => ?_, hlen, hcan⟩
  · exact hseg j (((getLsbD_or_one_shiftLeft _ hk j).mp hj).resolve_right hjk)
  · refine (getLsbD_or_one_shiftLeft s.pal.keys hk (n - 1)).mpr ?_
    rcases hn with rfl | rfl
    · exact .inr rfl
    · exact .inl (hpalN h0)

theorem segStored.length_le {k : Nat} (h : segStored s.mem k) : (s.segData k).length ≤ 7 := by
  obtain ⟨n, hn, hle, -⟩ := (segStored_iff s k).mp h
  rw [length_segData, State.byte, hn]
  exact hle

/-- A complete reassembly holds at most 128 segments of at most 7 bytes (43_ucan_pallet.md R255). -/
theorem length_reassembled_le (hs : reassemblerSound s) (hall : s.palAll = true) : s.reassembled.length ≤ 896 := by
  obtain ⟨hseg, hpalN, -, -⟩ := hs
  obtain ⟨h0, hkeys⟩ := (palAll_iff s).mp hall
  have hn : s.pal.palN - 1 < 128 := BitVec.lt_of_getLsbD (hpalN h0)
  have hsum := List.sum_le_card_nsmul ((List.range s.pal.palN).reverse.map fun k => (s.segData k).length) 7 (by
    intro x hx
    obtain ⟨k, hk, rfl⟩ := List.mem_map.mp hx
    exact (hseg k (((toNat_eq_two_pow_sub_one_iff _ _).mp hkeys k).mpr (by simpa using hk))).length_le)
  rw [List.length_map, List.length_reverse, List.length_range, smul_eq_mul] at hsum
  rw [State.reassembled, List.length_flatMap]
  omega

theorem reassemblerSound_palFail (e : Err) (hs : reassemblerSound s) : reassemblerSound (palFail e s) :=
  reassemblerSound_of_empty rfl rfl (Nat.zero_le _) hs.2.2.2

theorem reassemblerSound_palComplete (hs : reassemblerSound s) (hall : s.palAll = true) :
    reassemblerSound (palComplete s) := by
  rcases palComplete_cases s with ⟨-, -, hc⟩ | ⟨-, hc⟩ <;> rw [hc]
  · have hlen := length_reassembled_le hs hall
    exact reassemblerSound_of_empty rfl rfl (Nat.sub_le_sub_right hlen 4) hs.2.2.2
  · exact reassemblerSound_palFail _ hs

theorem reassemblerSound_palTake {k n : Nat} (hk : k < 128) (hs : reassemblerSound s)
    (hn : n = k + 1 ∨ n = s.pal.palN) : reassemblerSound (palTake k (latchPalN n s)) := by
  have hbuf := reassemblerSound_palBuffer hk hs hn
  rcases palTake_cases k (latchPalN n s) with ⟨hall, hc⟩ | ⟨-, hc⟩ <;> rw [hc]
  · exact reassemblerSound_palComplete hbuf hall
  · exact hbuf

theorem reassemblerSound_execPalSeg (hs : reassemblerSound s) (h : execPalSeg s = .next t) : reassemblerSound t := by
  rcases execPalSeg_cases s with ⟨-, hc⟩ | ⟨k, -, hk, hc⟩
  · exact next_inj (hc.symm.trans h) ▸ ReassemblerKept.reassemblerSound (.of_mem rfl rfl) hs
  have hk : k < 128 := hk ▸ BitVec.isLt _
  rcases hc with ⟨-, -, hc⟩ | ⟨-, -, -, hc⟩ | ⟨-, hc⟩ <;> obtain rfl := next_inj (hc.symm.trans h)
  · exact reassemblerSound_palTake hk hs (.inl rfl)
  · exact reassemblerSound_palFail _ hs
  · exact reassemblerSound_palTake hk hs (.inr rfl)

theorem reassemblerSound_execPalAbort (hs : reassemblerSound s) (h : execPalAbort s = .next t) :
    reassemblerSound t := by
  rcases execPalAbort_cases s with ⟨-, hc⟩ | ⟨-, hc⟩ <;> obtain rfl := next_inj (hc.symm.trans h)
  · exact hs
  · exact reassemblerSound_palFail _ hs

theorem reassemblerSound_exec_command {i : Instr} (hi : (encodeCmd i).isSome = true) (hs : reassemblerSound s)
    (h : exec i s = .next t) : reassemblerSound t := by
  by_cases hsrst : i = .srst
  · subst hsrst
    exact next_inj h ▸ reassemblerSound_of_reset rfl
  by_cases hseg : i = .palSeg
  · subst hseg
    exact reassemblerSound_execPalSeg hs h
  by_cases habort : i = .palAbort
  · subst habort
    exact reassemblerSound_execPalAbort hs h
  exact (exec_command_reassemblerKept hi hsrst hseg habort h).reassemblerSound hs

end

end Sys2Proof.Machine

namespace Sys2Proof.Proofs
open Sys2Proof.Machine

/-- Settles O59: a key is set only with its segment stored, a complete set is at most 128 segments of at most 7 bytes,
and no other agent reaches the reassembler. -/
theorem stepKeepsReassemblerSound : Obligations.StepKeepsReassemblerSound := by
  intro s t hs h
  refine step_keeps (P := reassemblerSound) (fun s => (ReassemblerKept.of_mem (by simp) (by simp)).reassemblerSound)
    (fun i s t hi hs h => reassemblerSound_exec_command hi hs h) (fun a s t hs h => ?hread)
    (fun r v s t hr hs h => (writeReg_reassemblerKept hr h).reassemblerSound hs)
    (fun e s => (ReassemblerKept.of_mem rfl rfl).reassemblerSound)
    (fun s => (ReassemblerKept.of_mem rfl rfl).reassemblerSound) (fun r s => ?hsam)
    (fun r s => (ReassemblerKept.of_mem (by simp) (by simp)).reassemblerSound)
    (fun s _ => reassemblerSound_of_reset rfl) hs h
  case hread =>
    obtain ⟨-, -, -, hpal, hmem, -⟩ := execBusRead_frame h
    exact (ReassemblerKept.of_mem hpal hmem).reassemblerSound hs
  case hsam =>
    have hf := samplerTick_frame r { s with tick := { s.tick with rxOwed := none } }
    exact (ReassemblerKept.of_pal hf.pal (hf.store .segd nofun nofun) (hf.store .segl nofun nofun)).reassemblerSound

end Sys2Proof.Proofs
end

section
/-! PROOFS. CRC32 loses nothing (40_checksum.md R141): a shift can be undone, so different registers or different bytes
never meet, and one changed byte shows in the residue (43_ucan_pallet.md R258). -/

namespace Sys2Proof.Machine

/-- The bit a shift drops stands in its top bit, since the polynomial's top bit is 1. -/
theorem getLsbD_crc32Shift_top (c : Word) : (crc32Shift c).getLsbD 31 = c.getLsbD 0 := by
  unfold crc32Shift
  split <;> simp_all

theorem crc32Shift_injective : Function.Injective crc32Shift := by
  intro c d h
  have h0 : c.getLsbD 0 = d.getLsbD 0 := by
    rw [← getLsbD_crc32Shift_top c, h, getLsbD_crc32Shift_top]
  have hshift : c >>> 1 = d >>> 1 := by
    unfold crc32Shift at h
    rw [h0] at h
    split at h
    · exact (BitVec.xor_left_inj _).mp h
    · exact h
  refine BitVec.eq_of_getLsbD_eq fun i hi => ?_
  cases i with
  | zero => exact h0
  | succ i =>
    have := congrArg (BitVec.getLsbD · i) hshift
    simpa [Nat.add_comm] using this

theorem repeat_injective {α : Type} {f : α → α} (hf : Function.Injective f) (n : Nat) :
    Function.Injective (Nat.repeat f n) := by
  induction n with
  | zero => exact fun _ _ h => h
  | succ n ih => exact fun _ _ h => ih (hf h)

theorem crc32Byte_left_injective (b : Byte) : Function.Injective (crc32Byte · b) := fun _ _ h =>
  (BitVec.xor_left_inj _).mp (repeat_injective crc32Shift_injective 8 h)

theorem crc32Byte_right_injective (c : Word) : Function.Injective (crc32Byte c) := by
  intro a b h
  have hwide : a.setWidth 32 = b.setWidth 32 :=
    (BitVec.xor_right_inj _).mp (repeat_injective crc32Shift_injective 8 h)
  have := congrArg BitVec.toNat hwide
  rw [BitVec.toNat_setWidth_of_le (by decide), BitVec.toNat_setWidth_of_le (by decide)] at this
  exact BitVec.eq_of_toNat_eq this

theorem crc32_injective (bs : List Byte) : Function.Injective (crc32 · bs) := by
  induction bs with
  | nil => exact fun _ _ h => h
  | cons b bs ih => exact fun _ _ h => crc32Byte_left_injective b (ih h)

/-- Buffers that differ in one byte have different CRCs. -/
theorem crc32_append_cons_injective (init : Word) (pre post : List Byte) :
    Function.Injective fun b => crc32 init (pre ++ b :: post) := by
  intro a b h
  simp only [crc32_append] at h
  exact crc32Byte_right_injective _ (crc32_injective post h)

end Sys2Proof.Machine

namespace Sys2Proof.Proofs
open Sys2Proof.Machine

/-- Settles O10: the buffer and the changed one differ in one byte, so not both have residue 0. -/
theorem singleByteErrorIsDetected : Obligations.SingleByteErrorIsDetected := by
  intro init buf i b h0 hi hne hcrc
  have hbuf : buf = buf.take i ++ buf[i] :: buf.drop (i + 1) := by simp
  rw [List.set_eq_take_append_cons_drop, if_pos hi] at hcrc
  rw [hbuf] at h0
  have heq : buf[i] = b := crc32_append_cons_injective init _ _ (h0.trans hcrc.symm)
  exact hne (heq ▸ List.getElem?_eq_getElem hi)

end Sys2Proof.Proofs
end

section
/-! PROOFS. The uCAN commands UC_BUILD and UC_CHECK (43_ucan_pallet.md R240, R242). -/

namespace Sys2Proof.Machine

/-- SUM8 is the sum of the bytes modulo 256 (40_checksum.md R140). -/
theorem toNat_sum8 (a : Byte) (bs : List Byte) : (sum8 a bs).toNat = (a.toNat + (bs.map BitVec.toNat).sum) % 256 := by
  induction bs generalizing a with
  | nil => exact (Nat.mod_eq_of_lt a.isLt).symm
  | cons b bs ih =>
    show (sum8 (a + b) bs).toNat = _
    rw [ih, BitVec.toNat_add, List.map_cons, List.sum_cons]
    omega

theorem execUcBuild_of_free {s : State} (hb : s.tx.txBusy = false) (hlen : s.tx.txLen ≤ 7) :
    execUcBuild s = .next { s.putBytes .txbuf s.tx.txLen
        (sum8 0 (s.bytes .txbuf 0 s.tx.txLen) :: List.replicate (7 - s.tx.txLen) 0) with
      tx := { s.tx with txLen := 8 } } := by
  simp [execUcBuild, hb, hlen]

end Sys2Proof.Machine

namespace Sys2Proof.Proofs
open Sys2Proof.Machine

/-- Settles O28: what UC_BUILD writes is eight bytes less the content, the checksum first. -/
theorem ucBuildAppendsChecksum : Obligations.UcBuildAppendsChecksum := by
  intro s
  refine ⟨badopUnless_of_no_argument (by decide) (by decide) (by decide) s, fun hb => if_pos hb,
    fun hb hlen => ?_, fun hb hlen => ?_⟩
  · show execUcBuild s = _
    rw [execUcBuild, if_neg (by simp [hb]), if_pos hlen]
    rfl
  · have hbyte (b : Buffer) (j : Nat) := putBytes_byte s .txbuf b s.tx.txLen j
      (sum8 0 (s.bytes .txbuf 0 s.tx.txLen) :: List.replicate (7 - s.tx.txLen) 0)
    simp only [List.length_cons, List.length_replicate] at hbyte
    refine ⟨_, execUcBuild_of_free hb hlen, rfl, (hbyte .txbuf _).trans ?_, fun j hlo hhi => (hbyte .txbuf j).trans ?_,
      fun b j hj => (hbyte b j).trans ?_, rfl, rfl, rfl, rfl, rfl, rfl, rfl⟩
    · rw [if_pos ⟨rfl, by omega⟩, Nat.sub_self]
      rfl
    · rw [if_pos ⟨rfl, by omega⟩]
      rw [show j - s.tx.txLen = j - s.tx.txLen - 1 + 1 by omega, List.getElem?_cons_succ, List.getElem?_replicate,
        if_pos (by omega)]
      rfl
    · refine if_neg ?_
      rintro ⟨rfl, hlo, hhi⟩
      have := hj.resolve_left (not_not_intro rfl)
      omega

/-- Settles O29: SUM8 is the sum modulo 256, so the bytes are equal exactly when the numbers are. -/
theorem ucCheckComparesChecksum : Obligations.UcCheckComparesChecksum := by
  intro s l
  refine ⟨badopUnless_of_namedCommand (fun w hop harg => ?_) s, ?_⟩
  · simp only [namedCommand, hop]
    simpa using harg
  have hsum : (sum8 0 (s.bytes .canbuf 0 l.toNat) == s.byte .canbuf l.toNat) =
      decide (((s.bytes .canbuf 0 l.toNat).map BitVec.toNat).sum % 256 = (s.byte .canbuf l.toNat).toNat) := by
    rw [Bool.eq_iff_iff, beq_iff_eq, decide_eq_true_iff, ← BitVec.toNat_inj, toNat_sum8]
    simp
  rw [← hsum]
  show execUcCheck l s = _
  unfold execUcCheck
  split <;> rfl

end Sys2Proof.Proofs
end

section
/-! PROOFS. PAL_TX (43_ucan_pallet.md R245): the slots it writes, byte by byte. -/

namespace Sys2Proof.Machine

theorem length_segSlot (buf : List Byte) (n i : Nat) : (segSlot buf n i).length = 8 := by
  have := length_segChunk_le buf i
  simp only [segSlot, List.length_cons, List.length_append, List.length_replicate]
  omega

theorem length_flatMap_segSlot (buf : List Byte) (m n : Nat) :
    ((List.range n).flatMap (segSlot buf m)).length = 8 * n := by
  simp [List.length_flatMap, length_segSlot, Nat.mul_comm]

/-- Slot i stands at byte 8i of the slots. -/
theorem getElem?_flatMap_segSlot (buf : List Byte) (m : Nat) {n i r : Nat} (hi : i < n) (hr : r < 8) :
    ((List.range n).flatMap (segSlot buf m))[8 * i + r]? = (segSlot buf m i)[r]? := by
  induction n with
  | zero => omega
  | succ n ih =>
    rw [List.range_succ, List.flatMap_append, List.flatMap_singleton]
    by_cases hin : i < n
    · rw [List.getElem?_append_left (by rw [length_flatMap_segSlot]; omega), ih hin]
    · obtain rfl : i = n := by omega
      rw [List.getElem?_append_right (by rw [length_flatMap_segSlot]; omega), length_flatMap_segSlot,
        Nat.add_sub_cancel_left]

/-- A slot's data bytes are the buffer's from 7i on, and zeros past its end (43_ucan_pallet.md R248). -/
theorem getElem?_segSlot_data (buf : List Byte) (n i : Nat) {j : Nat} (hj : j < 7) :
    (segSlot buf n i)[1 + j]? = some (buf.getD (7 * i + j) 0) := by
  have hchunk : (segChunk buf i)[j]? = buf[7 * i + j]? := by
    rw [segChunk, List.getElem?_take_of_lt hj, List.getElem?_drop]
  rw [segSlot, Nat.add_comm, List.getElem?_cons_succ, List.getD_eq_getElem?_getD, ← hchunk]
  by_cases hlt : j < (segChunk buf i).length
  · rw [List.getElem?_append_left hlt, List.getElem?_eq_getElem hlt]
    rfl
  · rw [List.getElem?_append_right (Nat.le_of_not_lt hlt), List.getElem?_replicate, if_pos (by omega),
      List.getElem?_eq_none (Nat.le_of_not_lt hlt)]
    rfl

theorem execPalTx_of_fits {s : State} (h : s.tx.txLen ≤ 892) : execPalTx s =
    let buf := palletBuffer s.regs.c32init (s.bytes .txbuf 0 s.tx.txLen)
    .next { s.putBytes .segbuf 0 (segSlots buf) with
            pal := { s.pal with segN := segCount buf.length,
                                segLastLen := buf.length - 7 * (segCount buf.length - 1) } } :=
  if_neg (Nat.not_lt.mpr h)

end Sys2Proof.Machine

namespace Sys2Proof.Proofs
open Sys2Proof.Machine

/-- Settles O30: the bytes from 0 on are the slots of segments 0 to N - 1, each a header and seven bytes. -/
theorem palTxWritesSegments : Obligations.PalTxWritesSegments := by
  intro s
  refine ⟨badopUnless_of_no_argument (by decide) (by decide) (by decide) s, fun h => if_pos h, fun h => ?_⟩
  intro d buf n
  have hlen : buf.length = s.tx.txLen + 4 := (length_palletBuffer s.regs.c32init d).trans (by rw [bytes_length])
  have hn : segCount buf.length = n := by rw [hlen]; rfl
  have hn128 : n ≤ 128 := by omega
  have hbyte (b : Buffer) (j : Nat) : (s.putBytes .segbuf 0 (segSlots buf)).byte b j =
      if b = .segbuf ∧ j < 8 * n then ((segSlots buf)[j]?).getD 0 else s.byte b j := by
    rw [putBytes_byte, segSlots, length_flatMap_segSlot, hn]
    simp
  have hslot {i r : Nat} (hi : i < n) (hr : r < 8) :
      (s.putBytes .segbuf 0 (segSlots buf)).byte .segbuf (8 * i + r) = ((segSlot buf n i)[r]?).getD 0 := by
    rw [hbyte, if_pos ⟨rfl, by omega⟩, segSlots, hn, getElem?_flatMap_segSlot buf n hi hr]
  refine ⟨_, execPalTx_of_fits h, ?_, by omega, hn128, ?_, ?_, fun i hi => ?_, fun i j hi hj => ?_,
    fun b j hj => (hbyte b j).trans (if_neg ?_), rfl, rfl, rfl, rfl, rfl, rfl, rfl⟩
  · rw [← hlen, ← hn]; rfl
  · show 1 ≤ buf.length - 7 * (segCount buf.length - 1)
    omega
  · show buf.length - 7 * (segCount buf.length - 1) ≤ 7
    omega
  · refine (hslot hi (r := 0) (by omega)).trans ?_
    show segHeader n i = _
    rw [← toNat_segHeader hn128 hi, BitVec.ofNat_toNat, BitVec.setWidth_eq]
  · rw [Nat.add_assoc]
    refine (hslot hi (r := 1 + j) (by omega)).trans ?_
    rw [getElem?_segSlot_data buf n i hj, Option.getD_some]
  · rintro ⟨rfl, hlt⟩
    have := hj.resolve_left (not_not_intro rfl)
    omega

end Sys2Proof.Proofs
end

section
/-! PROOFS. The sampler, one equation per state and outcome of a tick (44_serial.md R310 to R315), what becomes of a
received byte (R313, R317, R321), and the statements about reception, the whole character among them. -/

namespace Sys2Proof.Machine

section
variable {s : State} {r : Bool}

theorem samplerTick_off (hen : s.rxEn = false) : samplerTick r s = setUrxst .idle s := by
  simp [samplerTick, hen]

theorem samplerTick_idle (hen : s.rxEn = true) (h : s.urx.urxst = .idle) : samplerTick r s =
    if r then s else { s with urx := { s.urx with urxst := .start, urxCnt := 0 } } := by
  simp [samplerTick, hen, h]

theorem samplerTick_brk (hen : s.rxEn = true) (h : s.urx.urxst = .brk) : samplerTick r s =
    if r then setUrxst .idle s else s := by
  simp [samplerTick, hen, h]

/-- The count of ticks at which a state of the sampler takes its sample (44_serial.md R311 to R313); IDLE and BREAK do
not count. -/
def UrxState.sampleAt : UrxState → Option Nat
  | .idle => none
  | .start => some 8
  | .data => some 16
  | .stop => some 16
  | .brk => none

/-- Before the sample, the level of the line does not matter. -/
theorem samplerTick_count {n : Nat} (hen : s.rxEn = true) (h : s.urx.urxst.sampleAt = some n)
    (hc : s.urx.urxCnt + 1 ≠ n) : samplerTick r s = { s with urx := { s.urx with urxCnt := s.urx.urxCnt + 1 } } := by
  cases hst : s.urx.urxst <;> rw [hst] at h <;> cases h <;> simp [samplerTick, hen, hst, hc, Config.ovs]

theorem samplerTick_start_sample (hen : s.rxEn = true) (h : s.urx.urxst = .start) (hc : s.urx.urxCnt + 1 = 8) :
    samplerTick r s =
      if r then { s with urx := { s.urx with urxCnt := 8, urxst := .idle } }
      else { s with urx := { s.urx with urxst := .data, urxCnt := 0, urxNbit := 0, urxSh := 0 } } := by
  simp [samplerTick, hen, h, hc]

theorem samplerTick_data_sample (hen : s.rxEn = true) (h : s.urx.urxst = .data) (hc : s.urx.urxCnt + 1 = 16) :
    samplerTick r s =
      { s with urx := { s.urx with urxSh := setBit s.urx.urxSh s.urx.urxNbit r, urxNbit := s.urx.urxNbit + 1,
                                   urxCnt := 0, urxst := if s.urx.urxNbit + 1 = 8 then .stop else .data } } := by
  simp [samplerTick, hen, h, hc, Config.ovs]

theorem samplerTick_stop_sample (hen : s.rxEn = true) (h : s.urx.urxst = .stop) (hc : s.urx.urxCnt + 1 = 16) :
    samplerTick r s =
      if r then setUrxst .idle (receiveByte s.urx.urxSh { s with urx := { s.urx with urxCnt := 16 } })
      else setUrxst .brk (receiveFramingError { s with urx := { s.urx with urxCnt := 16 } }) := by
  simp [samplerTick, hen, h, hc, Config.ovs]

/-! ## What becomes of a byte, and of a framing error -/

/-- A 64-bit saturating count as a number (10_state.md R47). -/
theorem toNat_satInc64 (v : BitVec 64) : (satInc64 v).toNat = min (v.toNat + 1) (2 ^ 64 - 1) := by
  unfold satInc64
  split
  · rename_i h; subst h; rfl
  · rename_i h
    have hne : v.toNat ≠ 2 ^ 64 - 1 := fun he => h (BitVec.eq_of_toNat_eq (by simpa using he))
    have hlt := v.isLt
    rw [BitVec.toNat_add, min_eq_left (by omega)]
    exact Nat.mod_eq_of_lt (by simp; omega)

theorem satInc64_eq_ofNat_min (v : BitVec 64) : satInc64 v = BitVec.ofNat 64 (min (v.toNat + 1) (2 ^ 64 - 1)) := by
  rw [← toNat_satInc64, BitVec.ofNat_toNat, BitVec.setWidth_eq]

theorem receiveByte_eq_deliver (b : Byte) (s : State) : receiveByte b s = deliver b
    { s with urx := { s.urx with rxb := BitVec.ofNat 64 (min (s.urx.rxb.toNat + 1) (2 ^ 64 - 1)) } } := by
  rw [← satInc64_eq_ofNat_min]; rfl

theorem deliver_of_not_passthru (b : Byte) (h : s.passthru = false) : deliver b s = deframe b s := by
  simp [deliver, h]

theorem deliver_of_room (b : Byte) (h : s.passthru = true) (hlen : s.urx.rawFifo.length < 16) :
    deliver b s = { s with urx := { s.urx with rawFifo := s.urx.rawFifo ++ [b] } } := by
  simp [deliver, h, pushRaw, Config.rawDepth, hlen]

theorem deliver_of_full (b : Byte) (h : s.passthru = true) (hlen : s.urx.rawFifo.length = 16) :
    deliver b s = flagErr .rawovf s := by
  simp [deliver, h, pushRaw, Config.rawDepth, hlen]

theorem receiveFramingError_of_frame (h : s.passthru = false) (hdf : s.df.rxst ≠ .hunt) :
    receiveFramingError s = dropFrame .rxfrm (flagErr .uartfe s) := by
  simp [receiveFramingError, h, deframeFramingError, hdf]

theorem receiveFramingError_of_no_frame (h : ¬ (s.passthru = false ∧ s.df.rxst ≠ .hunt)) :
    receiveFramingError s = flagErr .uartfe s := by
  unfold receiveFramingError deframeFramingError
  split
  · rfl
  · rename_i hp
    exact if_pos (by simpa [hp] using h)

end

/-! ## A whole character -/

/-- The first `i` bits of a byte on the line, the bits yet to come 0. -/
def lowBits (b : Byte) (i : Nat) : Byte := (b.setWidth i).setWidth 8

theorem lowBits_zero (b : Byte) : lowBits b 0 = 0 := by
  rw [lowBits, BitVec.eq_nil (b.setWidth 0)]
  rfl

theorem lowBits_eight (b : Byte) : lowBits b 8 = b := by
  simp [lowBits]

theorem getLsbD_lowBits (b : Byte) (i j : Nat) : (lowBits b i).getLsbD j = (decide (j < i) && b.getLsbD j) := by
  by_cases hj : j < 8
  · simp [lowBits, hj]
  · simp [BitVec.getLsbD_of_ge _ _ (Nat.le_of_not_lt hj)]

/-- `v[i] <- r`, bit by bit (44_serial.md R312). -/
theorem getLsbD_setBit (v : Byte) {i j : Nat} (r : Bool) (hj : j < 8) :
    (setBit v i r).getLsbD j = if j = i then r else v.getLsbD j := by
  have hone : ((1 : Byte) <<< i).getLsbD j = decide (j = i) := by
    show (BitVec.twoPow 8 i).getLsbD j = _
    rw [BitVec.getLsbD_twoPow]
    by_cases hji : j = i
    · subst hji; simp [hj]
    · simp [hji, Ne.symm hji]
  cases r
  · simp only [setBit, Bool.false_eq_true, if_false, BitVec.getLsbD_and, BitVec.getLsbD_not, hj, hone]
    split <;> simp [*]
  · simp only [setBit, if_true, BitVec.getLsbD_or, hone]
    split <;> simp [*]

theorem setBit_lowBits (b : Byte) (i : Nat) : setBit (lowBits b i) i (b.getLsbD i) = lowBits b (i + 1) := by
  apply BitVec.eq_of_getLsbD_eq
  intro j hj
  rw [getLsbD_setBit _ _ hj, getLsbD_lowBits, getLsbD_lowBits]
  rcases Nat.lt_trichotomy j i with h | rfl | h
  · simp [h, Nat.ne_of_lt h, Nat.lt_succ_of_lt h]
  · simp
  · simp [Nat.ne_of_gt h, Nat.lt_asymm h, show ¬ j < i + 1 by omega]

theorem charLevel_data (b : Byte) {i : Nat} (hi : i < 8) : charLevel b (i + 1) = b.getLsbD i := by
  rw [charLevel, if_neg (Nat.succ_ne_zero i), if_pos (Nat.succ_le_of_lt hi), Nat.add_sub_cancel]

/-- The sampler `n` ticks after the middle of a start bit, the line carrying `b`: it has sampled a bit every 16
ticks. -/
def samplingBits (b : Byte) (n : Nat) (u : Receiver) : Receiver :=
  { u with urxst := if n / 16 = 8 then .stop else .data, urxCnt := n % 16, urxNbit := n / 16,
           urxSh := lowBits b (n / 16) }

/-- The sampler `n` ticks after the fall of a start bit, the line carrying `b`, up to the last tick before the middle
of the stop bit. -/
def samplingChar (b : Byte) (n : Nat) (u : Receiver) : Receiver :=
  if n < 8 then { u with urxst := .start, urxCnt := n } else samplingBits b (n - 8) u

/-- One tick of DATA or STOP, the line at its level 8 ticks into a bit period when the tick is a sample. -/
theorem samplerTick_samplingBits (b : Byte) {n : Nat} {s : State} (hen : s.rxEn = true) (hn : n < 143) :
    samplerTick (charLevel b ((n + 9) / 16)) { s with urx := samplingBits b n s.urx } =
      { s with urx := samplingBits b (n + 1) s.urx } := by
  by_cases hc : n % 16 + 1 = 16
  · have hlt : n / 16 < 8 := by omega
    have hlevel : charLevel b ((n + 9) / 16) = b.getLsbD (n / 16) := by
      rw [show (n + 9) / 16 = n / 16 + 1 by omega, charLevel_data b hlt]
    have hdiv : (n + 1) / 16 = n / 16 + 1 := by omega
    have hmod : (n + 1) % 16 = 0 := by omega
    have hnext : samplingBits b (n + 1) s.urx =
        { s.urx with urxst := if n / 16 + 1 = 8 then .stop else .data, urxCnt := 0, urxNbit := n / 16 + 1,
                     urxSh := setBit (lowBits b (n / 16)) (n / 16) (b.getLsbD (n / 16)) } := by
      rw [samplingBits, hdiv, hmod, setBit_lowBits]
    rw [hlevel, hnext]
    exact samplerTick_data_sample (s := { s with urx := samplingBits b n s.urx }) hen (if_neg hlt.ne) hc
  · have hst : (samplingBits b n s.urx).urxst.sampleAt = some 16 := by
      unfold samplingBits
      dsimp only
      split <;> rfl
    rw [samplerTick_count (s := { s with urx := samplingBits b n s.urx }) hen hst hc]
    simp only [samplingBits, show (n + 1) / 16 = n / 16 by omega, show (n + 1) % 16 = n % 16 + 1 by omega]

/-- One tick of the sampler inside a character. -/
theorem samplerTick_samplingChar (b : Byte) {n : Nat} {s : State} (hen : s.rxEn = true) (hn : n < 151) :
    samplerTick (charLevel b ((n + 1) / 16)) { s with urx := samplingChar b n s.urx } =
      { s with urx := samplingChar b (n + 1) s.urx } := by
  rcases Nat.lt_trichotomy n 7 with h | rfl | h
  · rw [samplingChar, if_pos (by omega), samplingChar, if_pos (by omega)]
    exact samplerTick_count (s := { s with urx := { s.urx with urxst := .start, urxCnt := n } }) hen rfl
      (by dsimp only; omega)
  · refine (samplerTick_start_sample (s := { s with urx := samplingChar b 7 s.urx }) hen rfl rfl).trans ?_
    simp [charLevel, samplingChar, samplingBits, lowBits_zero]
  · obtain ⟨m, rfl⟩ : ∃ m, n = m + 8 := ⟨n - 8, by omega⟩
    rw [samplingChar, if_neg (by omega), samplingChar, if_neg (by omega)]
    exact samplerTick_samplingBits b hen (by omega)

/-- From the fall of the start bit, the sampler follows the character. -/
theorem foldl_samplerTick_charLevel (b : Byte) {n : Nat} {s : State} (hen : s.rxEn = true) (hidle : s.urx.urxst = .idle)
    (hn : n ≤ 151) :
    ((List.range (n + 1)).map (fun k => charLevel b (k / 16))).foldl (fun s r => samplerTick r s) s =
      { s with urx := samplingChar b n s.urx } := by
  induction n with
  | zero => exact samplerTick_idle hen hidle
  | succ n ih =>
    rw [List.range_succ, List.map_append, List.foldl_append, ih (by omega)]
    exact samplerTick_samplingChar b hen (by omega)

end Sys2Proof.Machine

namespace Sys2Proof.Proofs
open Sys2Proof.Machine

/-- Settles O20: 152 ticks bring the sampler to the last tick of STOP with `b` shifted in, and the 153rd finds the stop
bit at 1. -/
theorem wellFormedCharacterIsReceived : Obligations.WellFormedCharacterIsReceived := by
  intro s b hen hidle
  have hlast : samplingChar b 151 s.urx = { s.urx with urxst := .stop, urxCnt := 15, urxNbit := 8, urxSh := b } := by
    simp [samplingChar, samplingBits, lowBits_eight]
  rw [charTicks, List.range_succ, List.map_append, List.foldl_append,
    foldl_samplerTick_charLevel b hen hidle (n := 151) le_rfl, hlast]
  exact samplerTick_stop_sample
    (s := { s with urx := { s.urx with urxst := .stop, urxCnt := 15, urxNbit := 8, urxSh := b } }) hen rfl rfl

/-- Settles O19, state by state. -/
theorem samplerIdleStartAndBreak : Obligations.SamplerIdleStartAndBreak := by
  intro s r
  refine ⟨samplerTick_off, fun hen h => ?_, fun hen h => ?_, fun hen h => samplerTick_brk hen h⟩
  · rw [samplerTick_idle hen h]
    cases r <;> rfl
  · split
    · exact samplerTick_count hen (by rw [h]; rfl) ‹_›
    · exact samplerTick_start_sample hen h (not_not.mp ‹_›)

/-- Settles O25: with a frame in progress the framing error also drops it. -/
theorem framingErrorAbandonsFrame : Obligations.FramingErrorAbandonsFrame := by
  intro s hen h hc
  rw [samplerTick_stop_sample hen h (by omega), if_neg Bool.false_ne_true]
  split
  · rename_i hframe
    have herr : s.regs.err ||| Err.uartfe.mask ||| Err.rxfrm.mask = s.regs.err ||| 0x240 := BitVec.or_assoc _ _ _
    rw [receiveFramingError_of_frame (s := { s with urx := { s.urx with urxCnt := 16 } }) hframe.1 hframe.2,
      dropFrame_eq, ← herr]
    rfl
  · rename_i hframe
    rw [receiveFramingError_of_no_frame (s := { s with urx := { s.urx with urxCnt := 16 } }) hframe]
    rfl

/-- Settles O26: the ticks of STOP, then the byte's way. -/
theorem passthroughByteGoesToRawFifo : Obligations.PassthroughByteGoesToRawFifo := by
  refine ⟨fun s r hen h hc => ?_, fun s hen h hc => ?_, fun s b => ?_⟩
  · exact samplerTick_count hen (by rw [h]; rfl) (by omega)
  · exact samplerTick_stop_sample hen h (by omega)
  · intro counted
    have hcounted : receiveByte b s = deliver b counted := receiveByte_eq_deliver b s
    rw [hcounted]
    exact ⟨deliver_of_not_passthru (s := counted) b, deliver_of_room (s := counted) b,
      deliver_of_full (s := counted) b⟩

end Sys2Proof.Proofs
end

section
/-! PROOFS. The bit clock (44_serial.md R290), and the serializer, one equation per state and outcome of a tick (R302 to
R305): from TIDLE, what it holds after every tick of a transmission, and the statements about the line and the end of a
transmission. -/

namespace Sys2Proof.Machine

section
variable {t : Transmitter}

theorem serializerTick_idle_nil (h : t.utxst = .tidle) (hq : t.txq = []) : serializerTick t = t := by
  simp [serializerTick, h, loadByte, hq]

theorem serializerTick_idle_cons {b : Byte} {rest : List Byte} (h : t.utxst = .tidle) (hq : t.txq = b :: rest) :
    serializerTick t = { t with utxB := b, txq := rest, utxCnt := 0, utxst := .tstart } := by
  simp [serializerTick, h, loadByte, hq]

theorem serializerTick_count (h : t.utxst ≠ .tidle) (hc : t.utxCnt + 1 ≠ 16) :
    serializerTick t = { t with utxCnt := t.utxCnt + 1 } := by
  cases hst : t.utxst <;> simp [serializerTick, hst, hc, Config.ovs] at h ⊢

theorem serializerTick_start_last (h : t.utxst = .tstart) (hc : t.utxCnt + 1 = 16) :
    serializerTick t = { t with utxst := .tdata, utxCnt := 0, utxNbit := 0 } := by
  simp [serializerTick, h, hc, Config.ovs]

theorem serializerTick_data_last (h : t.utxst = .tdata) (hc : t.utxCnt + 1 = 16) :
    serializerTick t = { t with utxCnt := 0, utxNbit := t.utxNbit + 1,
                                utxst := if t.utxNbit + 1 = 8 then .tstop else .tdata } := by
  simp [serializerTick, h, hc, Config.ovs]

theorem serializerTick_stop_last_nil (h : t.utxst = .tstop) (hc : t.utxCnt + 1 = 16) (hq : t.txq = []) :
    serializerTick t = endTx { t with txb := satInc64 t.txb, utxCnt := 16, utxst := .tidle } := by
  simp [serializerTick, h, hc, Config.ovs, endChar, hq]

theorem serializerTick_stop_last_cons {b : Byte} {rest : List Byte} (h : t.utxst = .tstop) (hc : t.utxCnt + 1 = 16)
    (hq : t.txq = b :: rest) : serializerTick t =
      { t with txb := satInc64 t.txb, utxB := b, txq := rest, utxCnt := 0, utxst := .tstart } := by
  simp [serializerTick, h, hc, Config.ovs, endChar, loadByte, hq]

/-- The end of a transmission, in a form that covers both values of TX_BUSY (44_serial.md R305). -/
theorem endTx_eq (t : Transmitter) : endTx t = { t with txBusy := false, txDone := t.txBusy || t.txDone } := by
  rcases endTx_cases t with ⟨hb, h⟩ | ⟨hb, h⟩ <;> rw [h, hb]
  · rfl
  · rw [Bool.false_or, ← hb]

end

/-! ## A whole transmission -/

/-- The serializer at the `k`-th tick of a character: in bit period `k / 16`, 0 the start bit and 9 the stop bit. -/
def sendingTick (k : Nat) (t : Transmitter) : Transmitter :=
  match k / 16 with
  | 0 => { t with utxst := .tstart, utxCnt := k % 16 }
  | p + 1 => { t with utxst := if p = 8 then .tstop else .tdata, utxCnt := k % 16, utxNbit := p }

theorem sendingTick_start {k : Nat} (hk : k / 16 = 0) (t : Transmitter) :
    sendingTick k t = { t with utxst := .tstart, utxCnt := k % 16 } := by
  rw [sendingTick, hk]

theorem sendingTick_succ {k p : Nat} (hk : k / 16 = p + 1) (t : Transmitter) :
    sendingTick k t = { t with utxst := if p = 8 then .tstop else .tdata, utxCnt := k % 16, utxNbit := p } := by
  rw [sendingTick, hk]

theorem sendingTick_fields (k : Nat) (t : Transmitter) : (sendingTick k t).txBusy = t.txBusy ∧
    (sendingTick k t).utxB = t.utxB ∧ (sendingTick k t).utxCnt = k % 16 ∧ (sendingTick k t).utxst ≠ .tidle := by
  cases hp : k / 16 with
  | zero => rw [sendingTick_start hp]; exact ⟨rfl, rfl, rfl, nofun⟩
  | succ p =>
    rw [sendingTick_succ hp]
    refine ⟨rfl, rfl, rfl, ?_⟩
    dsimp only
    split <;> nofun

/-- The line at the `k`-th tick of a character. -/
theorem txd_sendingTick {k : Nat} (hk : k < 160) (s : State) (t : Transmitter) :
    ({ s with tx := sendingTick k t } : State).txd = charLevel t.utxB (k / 16) := by
  cases hp : k / 16 with
  | zero => rw [sendingTick_start hp]; rfl
  | succ p =>
    rw [sendingTick_succ hp]
    by_cases h8 : p = 8
    · subst h8; rfl
    · rw [if_neg h8, charLevel_data t.utxB (by omega)]
      rfl

/-- One tick of the serializer inside a character. -/
theorem serializerTick_sendingTick {k : Nat} (hk : k < 159) (t : Transmitter) :
    serializerTick (sendingTick k t) = sendingTick (k + 1) t := by
  obtain ⟨-, -, hcnt, hst⟩ := sendingTick_fields k t
  by_cases hc : k % 16 + 1 = 16
  · have hmod : (k + 1) % 16 = 0 := by omega
    have hdiv : (k + 1) / 16 = k / 16 + 1 := by omega
    rw [sendingTick_succ hdiv, hmod]
    cases hp : k / 16 with
    | zero =>
      rw [sendingTick_start hp]
      exact serializerTick_start_last rfl hc
    | succ p =>
      rw [sendingTick_succ hp]
      exact serializerTick_data_last (if_neg (by omega)) hc
  · have hmod : (k + 1) % 16 = k % 16 + 1 := by omega
    have hdiv : (k + 1) / 16 = k / 16 := by omega
    rw [serializerTick_count hst (by rwa [hcnt])]
    simp only [sendingTick, hdiv, hmod]
    split <;> rfl

/-- The transmitter when the `i`-th byte of TXQ has been loaded, the bytes before it sent and counted in TXB; the bit
counter is the one the last character left. -/
def loadedByte (i : Nat) (t : Transmitter) : Transmitter :=
  { t with utxB := t.txq.getD i 0, txq := t.txq.drop (i + 1), txb := satInc64^[i] t.txb,
           utxNbit := if i = 0 then t.utxNbit else 8 }

/-- The last tick of a stop bit loads the byte that follows, with no gap (44_serial.md R304). -/
theorem serializerTick_loadedByte_last {i : Nat} {t : Transmitter} (hi : i + 1 < t.txq.length) :
    serializerTick (sendingTick 159 (loadedByte i t)) = sendingTick 0 (loadedByte (i + 1) t) := by
  have hq : (loadedByte i t).txq = t.txq.getD (i + 1) 0 :: t.txq.drop (i + 2) := by
    rw [List.getD_eq_getElem _ _ hi]
    exact List.drop_eq_getElem_cons hi
  refine (serializerTick_stop_last_cons (t := sendingTick 159 (loadedByte i t)) rfl rfl hq).trans ?_
  rw [sendingTick_start (k := 0) rfl, loadedByte, loadedByte, Function.iterate_succ_apply']
  rfl

/-- What the serializer holds `n` ticks after the first of a transmission: it is at tick `n % 160` of the character of
byte `n / 160`. -/
theorem iterate_serializerTick {t : Transmitter} (hidle : t.utxst = .tidle) {n : Nat} (hn : n < 160 * t.txq.length) :
    serializerTick^[n + 1] t = sendingTick (n % 160) (loadedByte (n / 160) t) := by
  induction n with
  | zero =>
    obtain ⟨b, rest, hq⟩ := List.exists_cons_of_length_pos (l := t.txq) (by omega)
    refine (serializerTick_idle_cons hidle hq).trans ?_
    simp [sendingTick_start, loadedByte, hq]
  | succ n ih =>
    rw [Function.iterate_succ_apply', ih (by omega)]
    by_cases hlast : n % 160 = 159
    · rw [hlast, serializerTick_loadedByte_last (by omega), show (n + 1) % 160 = 0 by omega,
        show (n + 1) / 160 = n / 160 + 1 by omega]
    · rw [serializerTick_sendingTick (by omega), show (n + 1) % 160 = n % 160 + 1 by omega,
        show (n + 1) / 160 = n / 160 by omega]

/-- TX_BUSY does not change before the end of a transmission. -/
theorem txBusy_iterate_serializerTick {t : Transmitter} (hidle : t.utxst = .tidle) {m : Nat}
    (hm : m ≤ 160 * t.txq.length) : (serializerTick^[m] t).txBusy = t.txBusy := by
  cases m with
  | zero => rfl
  | succ n =>
    rw [iterate_serializerTick hidle (by omega)]
    exact (sendingTick_fields _ _).1

/-- One tick after the last of a transmission of `k + 1` bytes, the serializer is in TIDLE and TXB has counted them. -/
theorem iterate_serializerTick_last {t : Transmitter} (hidle : t.utxst = .tidle) {k : Nat} (hk : t.txq.length = k + 1) :
    serializerTick^[160 * t.txq.length + 1] t =
      endTx { t with utxst := .tidle, utxCnt := 16, utxNbit := 8, utxB := t.txq.getD k 0, txq := [],
                     txb := satInc64^[k + 1] t.txb } := by
  have hq : (loadedByte k t).txq = [] := List.drop_eq_nil_of_le (Nat.le_of_eq hk)
  have hlast : 160 * t.txq.length = 160 * k + 159 + 1 := by omega
  rw [Function.iterate_succ_apply', hlast, iterate_serializerTick hidle (by omega),
    show (160 * k + 159) % 160 = 159 by omega, show (160 * k + 159) / 160 = k by omega,
    serializerTick_stop_last_nil (t := sendingTick 159 (loadedByte k t)) rfl rfl hq, Function.iterate_succ_apply',
    ← hq]
  rfl

theorem toNat_iterate_satInc64 (k : Nat) (v : BitVec 64) :
    (satInc64^[k] v).toNat = min (v.toNat + k) (2 ^ 64 - 1) := by
  induction k with
  | zero => exact (min_eq_left (Nat.le_sub_one_of_lt v.isLt)).symm
  | succ k ih =>
    rw [Function.iterate_succ_apply', toNat_satInc64, ih]
    omega

/-! ## The bit clock -/

theorem clockEdge_of_eq (r : Bool) {s : State} (h : s.tick.dv = s.tick.div) :
    clockEdge r s = { s with tick := { s.tick with dv := 0, txOwed := true, rxOwed := some r } } :=
  if_pos h

theorem clockEdge_of_ne (r : Bool) {s : State} (h : s.tick.dv ≠ s.tick.div) :
    clockEdge r s = { s with tick := { s.tick with dv := s.tick.dv + 1 } } :=
  if_neg h

/-- Up to DIV the clock edges only count. -/
theorem iterate_clockEdge (r : Bool) {s : State} (hdv : s.tick.dv = 0) {n : Nat} (hn : n ≤ s.tick.div.toNat) :
    (clockEdge r)^[n] s = { s with tick := { s.tick with dv := BitVec.ofNat 16 n } } := by
  induction n with
  | zero => exact congrArg (fun d => { s with tick := { s.tick with dv := d } }) hdv
  | succ n ih =>
    have hne : BitVec.ofNat 16 n ≠ s.tick.div := by
      intro he
      have hlt := s.tick.div.isLt
      have htoNat := congrArg BitVec.toNat he
      rw [BitVec.toNat_ofNat, Nat.mod_eq_of_lt (by omega)] at htoNat
      omega
    rw [Function.iterate_succ_apply', ih (by omega), clockEdge_of_ne r hne, ← BitVec.ofNat_add_ofNat]
    rfl

end Sys2Proof.Machine

namespace Sys2Proof.Proofs
open Sys2Proof.Machine

/-- Settles O15: each tick by its equation, and the transmission by what the serializer holds at its last tick. -/
theorem transmissionEndsAfter160TicksPerByte : Obligations.TransmissionEndsAfter160TicksPerByte := by
  refine ⟨fun t h hq => serializerTick_idle_nil h hq, fun t b rest h hq => serializerTick_idle_cons h hq,
    fun t h hc hq => ?_, fun t hidle hbusy hne => ⟨fun m hm => ?_, ?_⟩⟩
  · intro u
    have hu : u = _ := (serializerTick_stop_last_nil h (by omega) hq).trans (endTx_eq _)
    rw [hu]
    exact ⟨rfl, hq, rfl, rfl⟩
  · rw [txBusy_iterate_serializerTick hidle hm, hbusy]
  · obtain ⟨k, hk⟩ := Nat.exists_eq_succ_of_ne_zero (mt List.length_eq_zero_iff.mp hne)
    intro u
    have hu : u = _ := (iterate_serializerTick_last hidle hk).trans (endTx_eq _)
    rw [hu, hk]
    exact ⟨rfl, by simp [hbusy], rfl, rfl, rfl, rfl, toNat_iterate_satInc64 (k + 1) t.txb⟩

/-- Settles O16: the serializer's place in the queue at each tick gives the level of the line. -/
theorem lineCarriesQueuedBytes : Obligations.LineCarriesQueuedBytes := by
  intro s hidle n hn
  rw [iterate_serializerTick hidle hn]
  exact txd_sendingTick (Nat.mod_lt n (by decide)) s _

/-- Settles O18, by induction on the clock edges. -/
theorem oneTickEveryDivPlusOneEdges : Obligations.OneTickEveryDivPlusOneEdges := by
  intro s r hdv _ _
  refine ⟨fun n hn => iterate_clockEdge r hdv hn, ?_⟩
  rw [Function.iterate_succ_apply', iterate_clockEdge r hdv le_rfl, BitVec.ofNat_toNat, BitVec.setWidth_eq]
  exact clockEdge_of_eq r rfl

end Sys2Proof.Proofs
end

section
/-! PROOFS. The bus accesses register by register (45_control.md R341 to R349): the value a read returns, and the whole
next state of a write, with the framing, the pushes and the read-only registers. -/

namespace Sys2Proof.Machine

theorem exec_busWrite_reg {a : Addr} {r : Reg} (h : target a = .reg r) (v : Word) (s : State) :
    exec (.busWrite a v) s = writeReg r v s := by
  simp [exec, execBusWrite, h]

/-! ## Reads -/

/-- A read without a side effect, by the number that the register's value is. -/
theorem exec_busRead_of_toNat {a : Addr} {r : Reg} {s : State} {n : Nat} (h : target a = .reg r)
    (heffect : readEffect r s = s) (hvalue : (readValue r s).toNat = n) :
    exec (.busRead a) s = .next { s with env := { s.env with rdata := BitVec.ofNat 32 n } } := by
  rw [exec_busRead_reg h, heffect, ← hvalue, BitVec.ofNat_toNat, BitVec.setWidth_eq]
  rfl

theorem toNat_setWidth_ofNat {n : Nat} (hn : n ≤ 32) (k : Nat) :
    ((BitVec.ofNat n k).setWidth 32).toNat = k % 2 ^ n := by
  rw [BitVec.toNat_setWidth_of_le hn, BitVec.toNat_ofNat]

theorem toNat_extractLsb' {w : Nat} (x : BitVec w) (start len : Nat) :
    (x.extractLsb' start len).toNat = x.toNat / 2 ^ start % 2 ^ len := by
  rw [BitVec.extractLsb'_toNat, Nat.shiftRight_eq_div_pow]

/-- Two fields at the bottom of a register whose other bits are 0. -/
theorem toNat_append_fields {z m n : Nat} (x y : Nat) :
    ((0 : BitVec z) ++ BitVec.ofNat m x ++ BitVec.ofNat n y).toNat = y % 2 ^ n + x % 2 ^ m * 2 ^ n := by
  rw [toNat_append_eq_add, toNat_append_eq_add, BitVec.toNat_ofNat, BitVec.toNat_ofNat]
  simp [Nat.add_comm]

/-- FRAMECFG is the sum of its fields, each at its place (10_state.md R28). -/
theorem frameCfg_word_toNat (c : FrameCfg) : c.word.toNat =
    c.sm.toNat + c.em.toNat * 2 ^ 8 + (if c.chk == .crc32 then 1 else 0) * 2 ^ 16 + (if c.lw then 1 else 0) * 2 ^ 18
      + c.iw.val * 2 ^ 19 := by
  have hiw : (BitVec.ofNat 3 c.iw.val).toNat = c.iw.val := Nat.mod_eq_of_lt (by omega)
  have hlw : (bit c.lw).toNat = if c.lw then 1 else 0 := by cases c.lw <;> rfl
  have hchk : c.chk.code.toNat = if c.chk == .crc32 then 1 else 0 := by cases c.chk <;> rfl
  have hzero : (0 : BitVec 10).toNat = 0 := rfl
  simp only [FrameCfg.word, toNat_append_eq_add, hiw, hlw, hchk, hzero]
  omega

/-! ## Writes -/

/-- The low bits of the value are what a register of fewer bits gets (45_control.md R342). -/
theorem extractLsb'_zero_eq_ofNat (v : Word) (n : Nat) : v.extractLsb' 0 n = BitVec.ofNat n v.toNat := rfl

theorem chkOf_eq (v : BitVec 2) (old : Chk) :
    chkOf v old = if v.toNat = 0 then .sum8 else if v.toNat = 1 then .crc32 else old := by
  simp only [chkOf, ← BitVec.toNat_inj]
  rfl

theorem iwOf_val (v : BitVec 3) (old : Fin 5) : (iwOf v old).val = if v.toNat ≤ 4 then v.toNat else old.val := by
  by_cases h : v.toNat < 5
  · rw [iwOf, dif_pos h, if_pos (by omega)]
  · rw [iwOf, dif_neg h, if_neg (by omega)]

theorem putBytes_singleton_byte_same (s : State) (b : Buffer) (i : Nat) (x : Byte) :
    (s.putBytes b i [x]).byte b i = x := by
  simp [putBytes_byte]

theorem putBytes_singleton_byte_other (s : State) {b c : Buffer} {i j : Nat} (h : c ≠ b ∨ j ≠ i) (x : Byte) :
    (s.putBytes b i [x]).byte c j = s.byte c j := by
  rw [putBytes_byte, if_neg]
  rintro ⟨hc, hle, hlt⟩
  have hj : j = i := by rw [List.length_singleton] at hlt; omega
  exact h.elim (· hc) (· hj)

/-- The registers that a write leaves as they are (45_control.md R343). -/
def Reg.readOnly : Reg → Prop
  | .txlen | .rxlen | .rxinstr | .canlen | .seginfo | .palinfo | .rawdata | .rawcnt | .rxbytesLo | .rxbytesHi
  | .txbytesLo | .txbytesHi | .cntBadframe | .cntOverrun | .palkeys _ => True
  | .ctrl | .status | .err | .irqEn | .cmd | .framecfg | .bauddiv | .c32init | .s8 | .c32 | .txinstr | .txdata
  | .candata => False

theorem writeReg_of_readOnly {r : Reg} (h : r.readOnly) (v : Word) (s : State) : writeReg r v s = .next s := by
  cases r with
  | ctrl | status | err | irqEn | cmd | framecfg | bauddiv | c32init | s8 | c32 | txinstr | txdata | candata =>
    exact h.elim
  | _ => rfl

theorem writeStatus_of_zero {v : Word} (h2 : v.getLsbD 2 = false) (h4 : v.getLsbD 4 = false) (s : State) :
    writeStatus v s = s := by
  rw [writeStatus, h2, h4, Bool.not_false, Bool.and_true, Bool.and_true]

/-- Every aligned address of the window ranges is a byte of a window (20_memory.md R72). -/
theorem exists_target_window {a : Addr} (hlo : 0x1000 ≤ a.toNat) (hhi : a.toNat < 0x5020) (halign : a.toNat % 4 = 0) :
    ∃ b i, target a = .window b i := by
  have hmap : ¬ unmapped a = true := by rw [unmapped_iff]; omega
  rw [target, if_neg hmap, if_neg (by omega)]
  split_ifs <;> exact ⟨_, _, rfl⟩

/-! ## The reset of SRST -/

/-- What both resets share meets the table of 70_reset_and_hazards.md R451 and the pins of R453. -/
theorem registersReset_of_eq_reset {t : State} (hregs : t.regs = State.reset.regs) (htx : t.tx = State.reset.tx)
    (hdf : t.df = State.reset.df) (hhold : t.hold = State.reset.hold) (hurx : t.urx = State.reset.urx)
    (hdiv : t.tick.div = Config.bauddivReset) (hdv : t.tick.dv = 0) (hpal : t.pal = State.reset.pal) :
    registersReset t := by
  have hirq : t.irq = false := by
    rw [State.irq, State.rawAvail, hregs, htx, hhold, hurx, hpal]; rfl
  have htxd : t.txd = true := by rw [State.txd, htx]; rfl
  have hde : t.de = false := by rw [State.de, htx]; rfl
  rw [registersReset, hregs, htx, hdf, hhold, hurx, hpal]
  exact ⟨rfl, ⟨rfl, rfl, rfl, rfl, rfl, rfl, rfl⟩, rfl, ⟨rfl, rfl, rfl, rfl, rfl⟩, ⟨hdiv, hdv⟩, rfl,
    ⟨htxd, hde, hirq⟩⟩

theorem registersReset_softReset (s : State) : registersReset (softReset s) :=
  registersReset_of_eq_reset rfl rfl rfl rfl rfl rfl rfl rfl

theorem softReset_byte (s : State) {b : Buffer} (hd : b ≠ .segd) (hl : b ≠ .segl) (j : Nat) :
    (softReset s).byte b j = s.byte b j := by
  cases b with
  | segd => exact absurd rfl hd
  | segl => exact absurd rfl hl
  | _ => exact byte_congr rfl rfl j

end Sys2Proof.Machine

namespace Sys2Proof.Proofs
open Sys2Proof.Machine

/-- Settles O45: the fields of the new framing are the quotients of the value, and a reserved one is the old field. -/
theorem framecfgWriteKeepsReservedFields : Obligations.FramecfgWriteKeepsReservedFields := by
  refine fun s v => ⟨fun hbusy => ?_, fun hidle => ⟨frameCfgOf v s.regs.frameCfg, ?_, ?_, ?_, ?_, ?_, ?_⟩⟩
  · exact (exec_busWrite_reg (r := .framecfg) rfl v s).trans (if_pos hbusy)
  · exact (exec_busWrite_reg (r := .framecfg) rfl v s).trans (if_neg (by simp [hidle]))
  · exact BitVec.toNat_ofNat _ _
  · exact toNat_extractLsb' v 8 8
  · exact Nat.testBit_eq_decide_div_mod_eq
  · exact (chkOf_eq _ _).trans (by rw [toNat_extractLsb']; rfl)
  · exact (iwOf_val _ _).trans (by rw [toNat_extractLsb']; rfl)

/-- Settles O46, check by check: a byte that has room is stored at its buffer's length, and the length counts it. -/
theorem dataPushesAppend : Obligations.DataPushesAppend := by
  intro s v
  rw [exec_busWrite_reg (r := .txdata) rfl, exec_busWrite_reg (r := .candata) rfl]
  refine ⟨fun hbusy => if_pos hbusy, fun hidle hfull => ?_, fun hfull => if_pos hfull, fun hidle hroom => ?_,
    fun hroom => ?_⟩
  · exact (if_neg (by simp [hidle])).trans (if_pos hfull)
  · refine ⟨_, (if_neg (by simp [hidle])).trans (if_neg hroom), rfl, ?_, fun b j hj => ?_, rfl, rfl, rfl, rfl, rfl,
      rfl, rfl⟩
    · exact (byte_congr rfl rfl _).trans (putBytes_singleton_byte_same s .txbuf s.tx.txLen _)
    · exact (byte_congr_mem rfl rfl rfl b j).trans (putBytes_singleton_byte_other s hj _)
  · refine ⟨_, if_neg hroom, rfl, ?_, fun b j hj => ?_, rfl, rfl, rfl, rfl, rfl, rfl, rfl⟩
    · exact (byte_congr rfl rfl _).trans (putBytes_singleton_byte_same s .canbuf s.pal.canLen _)
    · exact (byte_congr_mem rfl rfl rfl b j).trans (putBytes_singleton_byte_other s hj _)

/-- Settles O4: the step of a host access, and both forms of the next input. -/
theorem stepRunsDecodedAccess : Obligations.StepRunsDecodedAccess := by
  refine ⟨fun s acc i hdecode hnext => ?_, fun s x rest hinputs => ?_, fun s hinputs => ?_⟩
  · rw [step_of_host hnext, hdecode]
  · simp only [State.nextInput, State.popInput, hinputs, and_self]
  · simp only [State.nextInput, State.popInput, hinputs, and_self]

/-- Settles O35: each effect is the command's meaning, and none of the four takes an argument. -/
theorem clearCommandsChangeOneElement : Obligations.ClearCommandsChangeOneElement := by
  refine fun s => ⟨rfl, ?_, rfl, rfl, ?_, ?_, ?_, ?_⟩
  · rcases execTxbClr_cases s with ⟨hb, hc⟩ | ⟨hb, hc⟩ <;> rw [hb] <;> exact hc
  all_goals exact badopUnless_of_no_argument (by decide) (by decide) (by decide) s

/-- Settles O36: SRST is `softReset`, which empties SEGD and SEGL alone of the stores. -/
theorem srstResetsAndKeepsBuffers : Obligations.SrstResetsAndKeepsBuffers := fun s =>
  ⟨badopUnless_of_no_argument (by decide) (by decide) (by decide) s, softReset s, rfl, registersReset_softReset s,
    fun _ j hd hl => softReset_byte s hd hl j⟩

/-- Settles O38, each register's value read as a number. -/
theorem registerReadsReturnTheirValue : Obligations.RegisterReadsReturnTheirValue := by
  intro s gives num
  refine ⟨exec_busRead_of_toNat (r := .ctrl) rfl rfl (BitVec.toNat_setWidth_of_le (by decide)),
    exec_busRead_of_toNat (r := .status) rfl rfl rfl,
    exec_busRead_of_toNat (r := .err) rfl rfl (BitVec.toNat_setWidth_of_le (by decide)),
    exec_busRead_of_toNat (r := .irqEn) rfl rfl (BitVec.toNat_setWidth_of_le (by decide)),
    exec_busRead_of_toNat (r := .cmd) rfl rfl rfl,
    exec_busRead_of_toNat (r := .framecfg) rfl rfl (frameCfg_word_toNat _),
    exec_busRead_of_toNat (r := .bauddiv) rfl rfl (BitVec.toNat_setWidth_of_le (by decide)),
    exec_busRead_of_toNat (r := .c32init) rfl rfl rfl,
    exec_busRead_of_toNat (r := .s8) rfl rfl (BitVec.toNat_setWidth_of_le (by decide)),
    exec_busRead_of_toNat (r := .c32) rfl rfl rfl,
    exec_busRead_of_toNat (r := .txinstr) rfl rfl rfl,
    exec_busRead_of_toNat (r := .txlen) rfl rfl (toNat_setWidth_ofNat (by decide) _),
    exec_busRead_of_toNat (r := .txdata) rfl rfl rfl,
    exec_busRead_of_toNat (r := .rxlen) rfl rfl (toNat_setWidth_ofNat (by decide) _),
    exec_busRead_of_toNat (r := .rxinstr) rfl rfl rfl,
    exec_busRead_of_toNat (r := .canlen) rfl rfl (toNat_setWidth_ofNat (by decide) _),
    exec_busRead_of_toNat (r := .candata) rfl rfl rfl,
    exec_busRead_of_toNat (r := .seginfo) rfl rfl (toNat_append_fields _ _),
    exec_busRead_of_toNat (r := .palinfo) rfl rfl (toNat_append_fields _ _),
    exec_busRead_of_toNat (r := .rawcnt) rfl rfl (toNat_setWidth_ofNat (by decide) _),
    exec_busRead_of_toNat (r := .rxbytesHi) rfl rfl rfl,
    exec_busRead_of_toNat (r := .txbytesHi) rfl rfl rfl,
    exec_busRead_of_toNat (r := .cntBadframe) rfl rfl (BitVec.toNat_setWidth_of_le (by decide)),
    exec_busRead_of_toNat (r := .cntOverrun) rfl rfl (BitVec.toNat_setWidth_of_le (by decide)),
    exec_busRead_of_toNat (r := .palkeys 0) rfl rfl ?_,
    exec_busRead_of_toNat (r := .palkeys 1) rfl rfl (toNat_extractLsb' _ 32 32),
    exec_busRead_of_toNat (r := .palkeys 2) rfl rfl (toNat_extractLsb' _ 64 32),
    exec_busRead_of_toNat (r := .palkeys 3) rfl rfl ?_⟩
  · exact (toNat_extractLsb' _ 0 32).trans (by rw [Nat.pow_zero, Nat.div_one])
  · have hkeys := s.pal.keys.isLt
    exact (toNat_extractLsb' _ 96 32).trans (Nat.mod_eq_of_lt (by omega))

/-- Settles O43, register by register: ERR keeps the bits outside the mask written. -/
theorem plainRegisterWrites : Obligations.PlainRegisterWrites := by
  refine fun s v => ⟨rfl, ⟨s.regs.err &&& ~~~(v.extractLsb' 0 15), fun k hk => ?_, rfl⟩, rfl, rfl, rfl, rfl,
    fun hidle => ?_, fun hidle => ?_⟩
  · simp [hk]
  · exact (exec_busWrite_reg (r := .c32init) rfl v s).trans (if_neg (by simp [hidle]))
  · exact (exec_busWrite_reg (r := .txinstr) rfl v s).trans (if_neg (by simp [hidle]))

/-- Settles O44, from the one next state of a CTRL write. -/
theorem ctrlWriteSetsEnables : Obligations.CtrlWriteSetsEnables := by
  intro s v
  rw [exec_busWrite_reg (r := .ctrl) rfl, writeReg, writeCtrl_eq]
  simp [extractLsb'_zero_eq_ofNat]

/-- Settles O47: a read-only register and a window ignore the write, and STATUS with both bits zero clears nothing. -/
theorem readOnlyWritesAreIgnored : Obligations.ReadOnlyWritesAreIgnored := by
  rintro s a v (hreg | ⟨hlo, hhi, halign⟩ | ⟨rfl, h2, h4⟩)
  · have htarget : ∃ r : Reg, target a = .reg r ∧ r.readOnly := by
      simp only [List.mem_cons, List.not_mem_nil, or_false] at hreg
      rcases hreg with rfl | rfl | rfl | rfl | rfl | rfl | rfl | rfl | rfl | rfl | rfl | rfl | rfl | rfl | rfl | rfl |
        rfl | rfl <;> exact ⟨_, rfl, trivial⟩
    obtain ⟨r, htarget, hr⟩ := htarget
    rw [exec_busWrite_reg htarget, writeReg_of_readOnly hr]
  · obtain ⟨b, i, htarget⟩ := exists_target_window hlo hhi halign
    exact exec_busWrite_window htarget v s
  · rw [exec_busWrite_reg (r := .status) rfl, writeReg, writeStatus_of_zero h2 h4]

end Sys2Proof.Proofs
end

section
/-! PROOFS. No instruction and no step stops the machine (60_exceptions.md R400): command by command and register by
register, each check that fails is a next state too. -/

namespace Sys2Proof.Machine

theorem exec_command_exists_next {i : Instr} (hi : (encodeCmd i).isSome = true) (s : State) :
    ∃ t, exec i s = .next t := by
  cases i with
  | busRead | busWrite => cases hi
  | nop | srst | s8Clr | s8Add | c32Init | c32Add | rxbRel | canbClr => exact ⟨_, rfl⟩
  | txbClr => rcases execTxbClr_cases s with ⟨-, h⟩ | ⟨-, h⟩ <;> exact ⟨_, h⟩
  | txFrame => rcases execTxFrame_cases s with ⟨_, -, h⟩ | ⟨-, -, -, -, h⟩ <;> exact ⟨_, h⟩
  | txRaw => rcases execTxRaw_cases s with ⟨_, -, h⟩ | ⟨-, -, -, -, h⟩ | ⟨-, -, -, -, h⟩ <;> exact ⟨_, h⟩
  | ucBuild => rcases execUcBuild_cases s with ⟨_, -, h⟩ | ⟨-, -, h⟩ <;> exact ⟨_, h⟩
  | ucCheck l => rcases execUcCheck_cases l s with ⟨-, h⟩ | ⟨-, h⟩ <;> exact ⟨_, h⟩
  | palTx => rcases execPalTx_cases s with ⟨-, h⟩ | ⟨-, _, -, h⟩ <;> exact ⟨_, h⟩
  | palSeg =>
    rcases execPalSeg_cases s with ⟨-, h⟩ | ⟨_, -, -, ⟨-, -, h⟩ | ⟨-, -, -, h⟩ | ⟨-, h⟩⟩ <;> exact ⟨_, h⟩
  | palAbort => rcases execPalAbort_cases s with ⟨-, h⟩ | ⟨-, h⟩ <;> exact ⟨_, h⟩

theorem writeReg_exists_next {r : Reg} (hr : r ≠ .cmd) (v : Word) (s : State) : ∃ t, writeReg r v s = .next t := by
  rcases writeReg_cases v s hr with ⟨_, -, h⟩ | ⟨-, h⟩ | ⟨-, h⟩ | ⟨-, h⟩ | ⟨-, h⟩ | ⟨-, -, h⟩ | ⟨-, h⟩ | ⟨-, -, h⟩ |
    ⟨-, h⟩ | ⟨-, h⟩ | ⟨-, -, h⟩ | ⟨-, -, -, h⟩ | ⟨-, -, h⟩ | h <;> exact ⟨_, h⟩

theorem execBusRead_exists_next (a : Addr) (s : State) : ∃ t, execBusRead a s = .next t := by
  rcases execBusRead_cases a s with ⟨-, h⟩ | ⟨_, _, -, h⟩ | ⟨_, -, h⟩ <;> exact ⟨_, h⟩

theorem execBusWrite_exists_next (a : Addr) (v : Word) (s : State) : ∃ t, execBusWrite a v s = .next t := by
  rcases execBusWrite_cases a v s with ⟨-, h⟩ | ⟨_, _, -, h⟩ | ⟨-, h⟩ | ⟨i, -, -, hi, h⟩ | ⟨r, hr, -, h⟩
  · exact ⟨_, h⟩
  · exact ⟨_, h⟩
  · exact ⟨_, h⟩
  · rw [h]; exact exec_command_exists_next hi s
  · rw [h]; exact writeReg_exists_next hr v s

theorem exec_exists_next (i : Instr) (s : State) : ∃ t, exec i s = .next t := by
  cases i with
  | busRead a => exact execBusRead_exists_next a s
  | busWrite a v => exact execBusWrite_exists_next a v s
  | _ => exact exec_command_exists_next rfl s

/-- Of the agents only the host's step is an instruction's; every other one answers its next state. -/
theorem step_exists_next (s : State) : ∃ t, step s = .next t := by
  unfold step
  split
  case h_1 acc _ => exact exec_exists_next (decode acc) s.popInput
  all_goals exact ⟨_, rfl⟩

end Sys2Proof.Machine

namespace Sys2Proof.Proofs
open Sys2Proof.Machine

/-- Settles O5: an instruction answers its effect or a refusal's next state, and an engine's step has no check. -/
theorem everyStepHasNextState : Obligations.EveryStepHasNextState :=
  ⟨exec_exists_next, step_exists_next⟩

end Sys2Proof.Proofs
end

section
/-! PROOFS. The refusals of the error table (60_exceptions.md R401 to R403) and the interrupt pin (R410, R411, R414). -/

namespace Sys2Proof.Machine

/-- The writes that a transmission in progress refuses (60_exceptions.md R401, BUSY). -/
theorem exec_busWrite_of_busy {a : Addr} {r : Reg} {s : State} (h : target a = .reg r)
    (hr : r = .framecfg ∨ r = .c32init ∨ r = .txinstr ∨ r = .txdata) (hb : s.tx.txBusy = true) (v : Word) :
    exec (.busWrite a v) s = .next (flagErr .busy s) := by
  rw [exec_busWrite_reg h]
  rcases hr with rfl | rfl | rfl | rfl <;> exact if_pos hb

/-- The pin is the disjunction of the five sources, each with its enable (60_exceptions.md R411). -/
theorem irq_eq_true_iff (s : State) : s.irq = true ↔
    (s.hold.rxFull = true ∧ s.regs.irqEn.getLsbD 0 = true) ∨ (s.tx.txDone = true ∧ s.regs.irqEn.getLsbD 1 = true)
      ∨ (s.pal.palDone = true ∧ s.regs.irqEn.getLsbD 2 = true) ∨ (s.regs.err ≠ 0 ∧ s.regs.irqEn.getLsbD 3 = true)
      ∨ (s.urx.rawFifo ≠ [] ∧ s.regs.irqEn.getLsbD 4 = true) := by
  simp only [State.irq, rawAvail_eq, Bool.or_eq_true, Bool.and_eq_true, bne_iff_ne, decide_eq_true_iff, or_assoc]

theorem irq_of_no_enable {s : State} (h : s.regs.irqEn = 0) : s.irq = false := by
  rw [Bool.eq_false_iff, ne_eq, irq_eq_true_iff, h]
  simp

end Sys2Proof.Machine

namespace Sys2Proof.Proofs
open Sys2Proof.Machine

/-- Settles O14, check by check: each refusal is `flagErr` of its kind, whose bit of ERR is the statement's. -/
theorem refusalSetsFirstFailingBit : Obligations.RefusalSetsFirstFailingBit := by
  intro s v l err
  obtain ⟨-, htxovf, hcanovf, -⟩ := dataPushesAppend s v
  refine ⟨fun w hw => ((commandWordRunsOrIsRefused w s).2 hw).2, fun hb => ?busy, fun hidle hmode => ?_,
    fun hidle hmode => ?_, fun hidle hen hpass hlw hlen => ?_, (ucBuildAppendsChecksum s).2.2.1,
    fun hlen => if_pos hlen, fun hlen => if_pos hlen, fun hempty => if_pos hempty, htxovf, hcanovf⟩
  case busy =>
    have hcmd {i : Instr} (hi : isTransmitCommand i) : exec i s = err 0x2 := exec_transmitCommand_of_busy hi hb
    have hwrite {a : Addr} {r : Reg} (h : target a = .reg r)
        (hr : r = .framecfg ∨ r = .c32init ∨ r = .txinstr ∨ r = .txdata) : exec (.busWrite a v) s = err 0x2 :=
      exec_busWrite_of_busy h hr hb v
    exact ⟨hcmd (.inr (.inl rfl)), hcmd (.inr (.inr (.inl rfl))), hcmd (.inl rfl), hcmd (.inr (.inr (.inr rfl))),
      hwrite (r := .framecfg) rfl (by simp), hwrite (r := .c32init) rfl (by simp),
      hwrite (r := .txinstr) rfl (by simp), hwrite (r := .txdata) rfl (by simp)⟩
  · rw [(txFrameQueuesFrame s).2, if_neg (Bool.eq_false_iff.mp hidle), if_pos hmode]
  · rw [(txRawQueuesBytes s).2, if_neg (Bool.eq_false_iff.mp hidle), if_pos hmode]
  · rw [(txFrameQueuesFrame s).2, if_neg (Bool.eq_false_iff.mp hidle), if_neg (by simp [hen, hpass]),
      if_pos ⟨hlw, hlen⟩]

/-- Settles O48: the five disjuncts of the pin, source by source. -/
theorem irqIsAnyEnabledCondition : Obligations.IrqIsAnyEnabledCondition := by
  refine ⟨fun s => ?_, fun _ => irq_of_no_enable, rfl⟩
  rw [irq_eq_true_iff]
  constructor
  · rintro (⟨h, he⟩ | ⟨h, he⟩ | ⟨h, he⟩ | ⟨h, he⟩ | ⟨h, he⟩)
    · exact ⟨0, by decide, he, .inl ⟨rfl, h⟩⟩
    · exact ⟨1, by decide, he, .inr (.inl ⟨rfl, h⟩)⟩
    · exact ⟨2, by decide, he, .inr (.inr (.inl ⟨rfl, h⟩))⟩
    · exact ⟨3, by decide, he, .inr (.inr (.inr (.inl ⟨rfl, h⟩)))⟩
    · exact ⟨4, by decide, he, .inr (.inr (.inr (.inr ⟨rfl, h⟩)))⟩
  · rintro ⟨k, -, he, ⟨rfl, h⟩ | ⟨rfl, h⟩ | ⟨rfl, h⟩ | ⟨rfl, h⟩ | ⟨rfl, h⟩⟩
    · exact .inl ⟨h, he⟩
    · exact .inr (.inl ⟨h, he⟩)
    · exact .inr (.inr (.inl ⟨h, he⟩))
    · exact .inr (.inr (.inr (.inl ⟨h, he⟩)))
    · exact .inr (.inr (.inr (.inr ⟨h, he⟩)))

end Sys2Proof.Proofs
end

section
/-! PROOFS. The canonical form of the byte stores (log entry 4): a step replaces a store only by writing bytes to it or
by emptying it, and both keep the form. -/

namespace Sys2Proof.Machine

section
variable {s t : State}

theorem memCanonical_of_mem (hmem : t.mem = s.mem) (hs : memCanonical s) : memCanonical t := by
  have hstore (b : Buffer) : t.store b = s.store b := by cases b <;> simp only [State.store, hmem]
  exact fun b => hstore b ▸ hs b

/-- A step that leaves the stores as writing bytes to one buffer does. -/
theorem memCanonical_of_putBytes (b : Buffer) {i : Nat} {bs : List Byte} (hmem : t.mem = (s.putBytes b i bs).mem)
    (hs : memCanonical s) : memCanonical t :=
  memCanonical_of_mem hmem (wf_putBytes hs b i bs)

/-! ## The commands -/

theorem memCanonical_softReset (hs : memCanonical s) : memCanonical (softReset s) := by
  intro b
  have hb := hs b
  cases b
  case segd | segl => exact List.Pairwise.nil
  all_goals exact hb

theorem memCanonical_palBuffer (k : Nat) (hs : memCanonical s) : memCanonical (palBuffer k s) :=
  memCanonical_of_putBytes .segl rfl (wf_putBytes hs .segd (8 * k) (s.bytes .canbuf 1 (s.pal.canLen - 1)))

theorem memCanonical_palComplete (hs : memCanonical s) : memCanonical (palComplete s) := by
  rcases palComplete_cases s with ⟨-, -, hc⟩ | ⟨-, hc⟩ <;> rw [hc]
  · exact memCanonical_of_putBytes .palbuf rfl hs
  · exact memCanonical_of_mem rfl hs

theorem memCanonical_palTake (k : Nat) (hs : memCanonical s) : memCanonical (palTake k s) := by
  rcases palTake_cases k s with ⟨-, hc⟩ | ⟨-, hc⟩ <;> rw [hc]
  · exact memCanonical_palComplete (memCanonical_palBuffer k hs)
  · exact memCanonical_palBuffer k hs

theorem memCanonical_execPalSeg (hs : memCanonical s) (h : execPalSeg s = .next t) : memCanonical t := by
  rcases execPalSeg_cases s with ⟨-, hc⟩ | ⟨k, -, -, ⟨-, -, hc⟩ | ⟨-, -, -, hc⟩ | ⟨-, hc⟩⟩ <;>
    obtain rfl := next_inj (hc.symm.trans h)
  · exact memCanonical_of_mem rfl hs
  · exact memCanonical_palTake k (memCanonical_of_mem rfl hs)
  · exact memCanonical_of_mem rfl hs
  · exact memCanonical_palTake k hs

theorem memCanonical_exec_command {i : Instr} (hi : (encodeCmd i).isSome = true) (hs : memCanonical s)
    (h : exec i s = .next t) : memCanonical t := by
  cases i <;> simp only [encodeCmd, Option.isSome_none, Bool.false_eq_true] at hi <;> simp only [exec] at h
  case nop | s8Clr | s8Add | c32Init | c32Add | rxbRel | canbClr => exact memCanonical_of_mem (next_inj h ▸ rfl) hs
  case srst => exact next_inj h ▸ memCanonical_softReset hs
  case txbClr =>
    rcases execTxbClr_cases s with ⟨-, hc⟩ | ⟨-, hc⟩ <;> obtain rfl := next_inj (hc.symm.trans h) <;>
      exact memCanonical_of_mem rfl hs
  case txFrame =>
    rcases execTxFrame_cases s with ⟨_, -, hc⟩ | ⟨-, -, -, -, hc⟩ <;> obtain rfl := next_inj (hc.symm.trans h) <;>
      exact memCanonical_of_mem rfl hs
  case txRaw =>
    rcases execTxRaw_cases s with ⟨_, -, hc⟩ | ⟨-, -, -, -, hc⟩ | ⟨-, -, -, -, hc⟩ <;>
      obtain rfl := next_inj (hc.symm.trans h) <;> exact memCanonical_of_mem rfl hs
  case ucBuild =>
    rcases execUcBuild_cases s with ⟨_, -, hc⟩ | ⟨-, -, hc⟩ <;> obtain rfl := next_inj (hc.symm.trans h)
    · exact memCanonical_of_mem rfl hs
    · exact memCanonical_of_putBytes .txbuf rfl hs
  case ucCheck l =>
    rcases execUcCheck_cases l s with ⟨-, hc⟩ | ⟨-, hc⟩ <;> obtain rfl := next_inj (hc.symm.trans h) <;>
      exact memCanonical_of_mem rfl hs
  case palTx =>
    rcases execPalTx_cases s with ⟨-, hc⟩ | ⟨-, _, -, hc⟩ <;> obtain rfl := next_inj (hc.symm.trans h)
    · exact memCanonical_of_mem rfl hs
    · exact memCanonical_of_putBytes .segbuf rfl hs
  case palSeg => exact memCanonical_execPalSeg hs h
  case palAbort =>
    rcases execPalAbort_cases s with ⟨-, hc⟩ | ⟨-, hc⟩ <;> obtain rfl := next_inj (hc.symm.trans h) <;>
      exact memCanonical_of_mem rfl hs

/-! ## The register writes and the receive path -/

theorem memCanonical_writeReg {r : Reg} {v : Word} (hr : r ≠ .cmd) (hs : memCanonical s)
    (h : writeReg r v s = .next t) : memCanonical t := by
  rcases writeReg_cases v s hr with ⟨e, -, hc⟩ | ⟨-, hc⟩ | ⟨-, hc⟩ | ⟨-, hc⟩ | ⟨-, hc⟩ | ⟨-, -, hc⟩ | ⟨-, hc⟩ |
    ⟨-, -, hc⟩ | ⟨-, hc⟩ | ⟨-, hc⟩ | ⟨-, -, hc⟩ | ⟨-, -, -, hc⟩ | ⟨-, -, hc⟩ | hc <;>
    obtain rfl := next_inj (hc.symm.trans h)
  -- CANDATA and TXDATA push a byte; the others leave every store.
  on_goal 13 => exact memCanonical_of_putBytes .canbuf rfl hs
  on_goal 12 => exact memCanonical_of_putBytes .txbuf rfl hs
  on_goal 2 => rw [writeCtrl_eq]
  all_goals exact memCanonical_of_mem rfl hs

theorem memCanonical_accept (hs : memCanonical s) : memCanonical (accept s) := by
  rcases accept_cases s with ⟨-, hc⟩ | ⟨-, hc⟩ <;> rw [hc]
  · exact memCanonical_of_mem rfl hs
  · exact memCanonical_of_putBytes .rxbuf rfl hs

theorem memCanonical_deframe (b : Byte) (hs : memCanonical s) : memCanonical (deframe b s) := by
  rcases deframe_cases b s with ⟨_, hc⟩ | ⟨_, hc⟩ | ⟨_, _, hc⟩ | ⟨-, hc⟩ <;> rw [hc]
  · exact memCanonical_of_mem rfl hs
  · exact memCanonical_of_putBytes .asm rfl hs
  · exact memCanonical_of_mem rfl hs
  · exact memCanonical_of_mem rfl (memCanonical_accept hs)

theorem memCanonical_samplerTick (r : Bool) (hs : memCanonical s) : memCanonical (samplerTick r s) :=
  samplerTick_keeps (P := memCanonical) (fun _ _ _ => memCanonical_of_mem rfl) (fun _ _ => memCanonical_of_mem rfl)
    (fun b s => memCanonical_of_mem (pushRaw_frame b s).2.1) (fun b _ => memCanonical_deframe b)
    (fun _ _ => memCanonical_of_mem rfl) r hs

end

end Sys2Proof.Machine

namespace Sys2Proof.Proofs
open Sys2Proof.Machine

/-- Settles O54, agent by agent: the commands, TXDATA, CANDATA and the deframer write bytes, both resets empty stores,
and the rest touch none. -/
theorem stepKeepsMemoryCanonical : Obligations.StepKeepsMemoryCanonical := by
  intro s t hs h
  refine step_keeps (P := memCanonical) (fun s => memCanonical_of_mem (popInput_mem s))
    (fun i s t hi hs h => memCanonical_exec_command hi hs h) (fun a s t hs h => ?hread)
    (fun r v s t hr hs h => memCanonical_writeReg hr hs h) (fun e s => memCanonical_of_mem (flagErr_mem e s))
    (fun s => memCanonical_of_mem rfl) (fun r s hs => memCanonical_samplerTick r (memCanonical_of_mem rfl hs))
    (fun r s => memCanonical_of_mem (clockEdge_mem r s))
    (fun s _ => memCanonical_of_mem (hardReset_mem s) reset_stores_wf) hs h
  case hread =>
    obtain ⟨-, -, -, -, hmem, -⟩ := execBusRead_frame h
    exact memCanonical_of_mem hmem hs

end Sys2Proof.Proofs
end

section
/-! PROOFS. What the checksum, uCAN and pallet commands leave as it was (70_reset_and_hazards.md R478). -/

namespace Sys2Proof.Machine

/-- The commands of 40_checksum.md and 43_ucan_pallet.md. -/
def isCheckOrPalletCommand (i : Instr) : Prop :=
  i = .s8Clr ∨ (∃ b, i = .s8Add b) ∨ i = .c32Init ∨ (∃ b, i = .c32Add b) ∨ i = .ucBuild ∨ (∃ l, i = .ucCheck l)
    ∨ i = .palTx ∨ i = .palSeg ∨ i = .palAbort

/-- They are commands, none of them is SRST, and only UC_BUILD writes what a transmission sends. -/
theorem isCheckOrPalletCommand.isCommand {i : Instr} (hi : isCheckOrPalletCommand i) :
    (encodeCmd i).isSome = true ∧ i ≠ .srst ∧ (i ≠ .ucBuild → ¬ isTransmitCommand i) := by
  rcases hi with rfl | ⟨_, rfl⟩ | rfl | ⟨_, rfl⟩ | rfl | ⟨_, rfl⟩ | rfl | rfl | rfl <;>
    simp [encodeCmd, isTransmitCommand]

/-- They leave the hold registers, and the transmit side but for TXLEN. -/
theorem isCheckOrPalletCommand.keeps_hold_tx {i : Instr} {s t : State} (hi : isCheckOrPalletCommand i)
    (h : exec i s = .next t) : t.hold = s.hold ∧ t.tx = { s.tx with txLen := t.tx.txLen } := by
  rcases hi with rfl | ⟨_, rfl⟩ | rfl | ⟨_, rfl⟩ | rfl | ⟨l, rfl⟩ | rfl | rfl | rfl
  iterate 4 exact next_inj h ▸ ⟨rfl, rfl⟩
  · rcases execUcBuild_cases s with ⟨_, -, hc⟩ | ⟨-, -, hc⟩ <;> exact next_inj (hc.symm.trans h) ▸ ⟨rfl, rfl⟩
  · rcases execUcCheck_cases l s with ⟨-, hc⟩ | ⟨-, hc⟩ <;> exact next_inj (hc.symm.trans h) ▸ ⟨rfl, rfl⟩
  · rcases execPalTx_cases s with ⟨-, hc⟩ | ⟨-, _, -, hc⟩ <;> exact next_inj (hc.symm.trans h) ▸ ⟨rfl, rfl⟩
  · have hf := execPalSeg_frame h
    exact ⟨hf.hold, by rw [hf.tx]⟩
  · have hf := execPalAbort_frame h
    exact ⟨hf.hold, by rw [hf.tx]⟩

end Sys2Proof.Machine

namespace Sys2Proof.Proofs
open Sys2Proof.Machine

/-- Settles O51: the frame of every command but SRST, the buffers each command owns, and, for these nine, the hold
registers and the transmit side. -/
theorem checkAndPalletCommandsLeaveEngines : Obligations.CheckAndPalletCommandsLeaveEngines := by
  intro i s t h hi
  obtain ⟨hcmd, hsrst, htransmit⟩ := isCheckOrPalletCommand.isCommand hi
  obtain ⟨hhold, htx⟩ := isCheckOrPalletCommand.keeps_hold_tx hi h
  have hf := exec_command_frame hcmd hsrst h
  have hbyte := (exec_command_ownerFrame hcmd h).byte
  exact ⟨htx, fun hne => by rw [exec_command_keeps_tx hcmd hsrst (htransmit hne) h], hf.df, hhold, hf.urx, hf.tick,
    hf.env, hf.ctrl, hf.irqEn, hf.frameCfg, hf.c32init, hf.txInstr,
    fun j => ⟨(hbyte .rxbuf).resolve_left id j, (hbyte .asm).resolve_left id j⟩⟩

end Sys2Proof.Proofs
end

section
/-! PROOFS. The state after reset (70_reset_and_hazards.md R451 to R453): its registers, and the invariants. -/

namespace Sys2Proof.Machine

theorem step_of_rstN {s : State} (h : s.nextInput = .rstN) : step s = .next (hardReset s.popInput) := by
  simp [step, h]

theorem registersReset_reset : registersReset State.reset := registersReset_of_eq_reset rfl rfl rfl rfl rfl rfl rfl rfl

theorem registersReset_hardReset (s : State) : registersReset (hardReset s) :=
  registersReset_of_eq_reset rfl rfl rfl rfl rfl rfl rfl rfl

theorem reset_store (b : Buffer) : State.reset.store b = [] := by
  cases b <;> rfl

end Sys2Proof.Machine

namespace Sys2Proof.Proofs
open Sys2Proof.Machine

/-- Settles O37: `rst_n` gives the registers of the state after power-on, which meets the table. -/
theorem rstNResetsEverything : Obligations.RstNResetsEverything :=
  ⟨registersReset_reset, fun s h => ⟨hardReset s.popInput, step_of_rstN h, registersReset_hardReset _⟩⟩

/-- Settles O60: each invariant by its lemma about reset, with all engines at rest and every length 0. -/
theorem invariantsHoldAtReset : Obligations.InvariantsHoldAtReset := by
  obtain ⟨hser, hsam, hdiv⟩ := countersInRange_of_reset (t := State.reset) rfl rfl rfl
  obtain ⟨hfield, hlengths⟩ := buffersWritten_of_reset (t := State.reset) rfl rfl rfl rfl rfl
  exact ⟨reset_store, reset_stores_wf, transmitSound_reset rfl, hser, hsam, hdiv, receiveModes_of_idle rfl rfl, hfield,
    hlengths, reassemblerSound_of_reset rfl⟩

end Sys2Proof.Proofs
end
